-- ==== Sys2Proof/Word.lean ====
section
/-! DEFINITION. The bit vectors of the block: register words, halves (frequencies, distances) and bytes. -/

namespace Sys2Proof

/-- A scalar register of 32 bits (spec 10_state R22). -/
abbrev Word := BitVec 32

/-- A 16-bit quantity: a frequency, a cumulative frequency, a match distance (10_state R26, 30_encoding R92). -/
abbrev Half := BitVec 16

/-- A byte of a buffer (10_state R32). -/
abbrev Byte := BitVec 8

end Sys2Proof
end

