-- ==== Sys2Proof/Syntax.lean ====
section
/-! DEFINITION. The instruction set: the two tokens of the compressed stream and the 27 commands of spec 30_encoding R100,
and the names of the eight byte buffers of 10_state R32. -/

namespace Sys2Proof

/-- The eight byte buffers, each an address space of its own (10_state R32). -/
inductive Space where
  | inp | lit | rans | flags | mtch | model | art | out
deriving DecidableEq, Repr

/-- A token of the compressed stream as the token decoder reads it (30_encoding R90, R106). -/
inductive Token where
  | lit
  | mtch (dist : Half) (len : Byte)
deriving DecidableEq, Repr

/-- One constructor per row of spec/opcode_table.json (30_encoding R100). Commands carry no operand: they read `ARG0`, `ARG1`
and the buffers at the moment `CMD` is written (R101). A `MATCH` carries the record that stands behind its flag bit (R92). -/
inductive Instr where
  | lit
  | matchTok (dist : Half) (len : Byte)
  | reset
  | compress
  | decompress
  | bwInit
  | bwWbit
  | bwWbits
  | bwFlush
  | bwBytes
  | brInit
  | brRbit
  | brRbits
  | ssCount
  | ssStore
  | ssLoad
  | reInit
  | rePut
  | reFlush
  | rdInit
  | rdGet
  | lzInit
  | lzStep
  | lzParse
  | ctPack
  | ctUnpack
  | decInit
  | decStep
  | decRun
deriving DecidableEq, Repr

/-- The two tokens are instructions (30_encoding R90: "A token is the decoder's instruction"). -/
def Token.instr : Token → Instr
  | .lit => .lit
  | .mtch dist len => .matchTok dist len

/-- Where an instruction's words stand: a command is one byte written to `CMD` (30_encoding R101); a token is one flag bit of
`FLAGS` and, for a match, three bytes of `MATCH` (R90, R92). -/
inductive Words where
  | cmd (code : Byte)
  | token (flag : Bool) (record : List Byte)
deriving DecidableEq, Repr

/-- Why words are no instruction. -/
inductive DecodeError where
  /-- A `CMD` value that 30_encoding R100 does not list (R104). -/
  | reservedCommand (code : Byte)
  /-- Flag bit 1 with fewer than three bytes left in the match region (30_encoding R103). -/
  | matchUnderflow
deriving DecidableEq, Repr

end Sys2Proof
end

