-- ==== Sys2Proof/WellFormed.lean ====
section
/-! DEFINITION. Which instructions are well formed as syntax. -/

namespace Sys2Proof

/-- The one illegal operand the encodings leave room for: a match record with `dist = 0` (30_encoding R103: "a token has
`1 <= distance`"). A distance that points before the start of `OUT` depends on the state and is no question of syntax, and
every `len` from 0 to 255 is legal (R102). -/
def wellFormed : Instr → Bool
  | .lit => true
  | .matchTok dist _ => dist != 0#16
  | .reset => true
  | .compress => true
  | .decompress => true
  | .bwInit => true
  | .bwWbit => true
  | .bwWbits => true
  | .bwFlush => true
  | .bwBytes => true
  | .brInit => true
  | .brRbit => true
  | .brRbits => true
  | .ssCount => true
  | .ssStore => true
  | .ssLoad => true
  | .reInit => true
  | .rePut => true
  | .reFlush => true
  | .rdInit => true
  | .rdGet => true
  | .lzInit => true
  | .lzStep => true
  | .lzParse => true
  | .ctPack => true
  | .ctUnpack => true
  | .decInit => true
  | .decStep => true
  | .decRun => true

/-- `wellFormed` as a proposition. -/
abbrev WellFormed (i : Instr) : Prop := wellFormed i = true

end Sys2Proof
end

