-- ==== Sys2Proof/Decode.lean ====
section
/-! DEFINITION. The two decoders (a command byte, a token), and after them the encoders, from the encoding tables of spec
30_encoding; the packing of a token listing into the flag and match regions (R91, R92, R106). -/

namespace Sys2Proof

/-- `le16(b0, b1)` (00_scope R13): `b0` is the byte at the lowest address. -/
def le16 (b0 b1 : Byte) : Half := b1 ++ b0

/-- `bytes_le16(v)` (00_scope R13). -/
def bytesLe16 (v : Half) : List Byte := [v.extractLsb' 0 8, v.extractLsb' 8 8]

/-- The command codes of 30_encoding R100. -/
def cmdTable : List (Byte × Instr) :=
  [ (0x00#8, .reset), (0x01#8, .compress), (0x02#8, .decompress),
    (0x10#8, .bwInit), (0x11#8, .bwWbit), (0x12#8, .bwWbits), (0x13#8, .bwFlush), (0x14#8, .bwBytes),
    (0x20#8, .brInit), (0x21#8, .brRbit), (0x22#8, .brRbits),
    (0x30#8, .ssCount), (0x31#8, .ssStore), (0x32#8, .ssLoad),
    (0x40#8, .reInit), (0x41#8, .rePut), (0x42#8, .reFlush),
    (0x50#8, .rdInit), (0x51#8, .rdGet),
    (0x60#8, .lzInit), (0x61#8, .lzStep), (0x62#8, .lzParse),
    (0x70#8, .ctPack), (0x71#8, .ctUnpack),
    (0x80#8, .decInit), (0x81#8, .decStep), (0x82#8, .decRun) ]

/-- The command a byte written to `CMD` stands for; every value the table does not list is reserved (R104). -/
def decodeCmd (code : Byte) : Except DecodeError Instr :=
  match cmdTable.find? (fun row => row.1 == code) with
  | some row => .ok row.2
  | none => .error (.reservedCommand code)

/-- The token at a flag bit and the bytes of the match region from the decoder's cursor on (R90, R92, R97): flag 0 is a
literal and takes no record, flag 1 takes the next three bytes. The bytes left over belong to the following tokens. -/
def decodeToken : Bool → List Byte → Except DecodeError (Token × List Byte)
  | false, bytes => .ok (.lit, bytes)
  | true, d0 :: d1 :: len :: bytes => .ok (.mtch (le16 d0 d1) len, bytes)
  | true, [] => .error .matchUnderflow
  | true, [_] => .error .matchUnderflow
  | true, [_, _] => .error .matchUnderflow

/-- Decoding is total: words are an instruction or are rejected by name. -/
def decode : Words → Except DecodeError Instr
  | .cmd code => decodeCmd code
  | .token flag record =>
    match decodeToken flag record with
    | .ok (t, _) => .ok t.instr
    | .error e => .error e

/-- The flag bit and the record of a token (R90, R91, R92). -/
def encodeToken : Token → Bool × List Byte
  | .lit => (false, [])
  | .mtch dist len => (true, bytesLe16 dist ++ [len])

/-- The words of an instruction (R90, R92, R100, R101). -/
def encode : Instr → Words
  | .lit => .token false []
  | .matchTok dist len => .token true (bytesLe16 dist ++ [len])
  | .reset => .cmd 0x00#8
  | .compress => .cmd 0x01#8
  | .decompress => .cmd 0x02#8
  | .bwInit => .cmd 0x10#8
  | .bwWbit => .cmd 0x11#8
  | .bwWbits => .cmd 0x12#8
  | .bwFlush => .cmd 0x13#8
  | .bwBytes => .cmd 0x14#8
  | .brInit => .cmd 0x20#8
  | .brRbit => .cmd 0x21#8
  | .brRbits => .cmd 0x22#8
  | .ssCount => .cmd 0x30#8
  | .ssStore => .cmd 0x31#8
  | .ssLoad => .cmd 0x32#8
  | .reInit => .cmd 0x40#8
  | .rePut => .cmd 0x41#8
  | .reFlush => .cmd 0x42#8
  | .rdInit => .cmd 0x50#8
  | .rdGet => .cmd 0x51#8
  | .lzInit => .cmd 0x60#8
  | .lzStep => .cmd 0x61#8
  | .lzParse => .cmd 0x62#8
  | .ctPack => .cmd 0x70#8
  | .ctUnpack => .cmd 0x71#8
  | .decInit => .cmd 0x80#8
  | .decStep => .cmd 0x81#8
  | .decRun => .cmd 0x82#8

/-- Flag bit `j` of a stream inside its byte `j / 8`: bit `7 - (j mod 8)` (20_memory R61, 30_encoding R96). -/
def flagBit (b : Byte) (j : Nat) : Bool := b.getLsbD (7 - j % 8)

/-- A byte whose bit `7 - k` is `f k` (30_encoding R91). -/
def packByte (f : Nat → Bool) : Byte :=
  BitVec.ofBool (f 0) ++ BitVec.ofBool (f 1) ++ BitVec.ofBool (f 2) ++ BitVec.ofBool (f 3) ++
    BitVec.ofBool (f 4) ++ BitVec.ofBool (f 5) ++ BitVec.ofBool (f 6) ++ BitVec.ofBool (f 7)

/-- The flag region of a sequence of flag bits: most significant bit first, the last byte padded with zeros (R91). -/
def packFlags (bits : List Bool) : List Byte :=
  (List.range ((bits.length + 7) / 8)).map fun q => packByte fun k => bits.getD (8 * q + k) false

/-- The flag of token `j`, 0 past the end of the region (R96). -/
def flagAt (flags : List Byte) (j : Nat) : Bool := flagBit (flags.getD (j / 8) 0#8) j

/-- The flag region and the match region of a token listing (R106; 95_test_vectors section 4, steps 1 and 2). -/
def assemble (tokens : List Token) : List Byte × List Byte :=
  (packFlags (tokens.map fun t => (encodeToken t).1), (tokens.map fun t => (encodeToken t).2).flatten)

/-- The next `n` tokens of a stream from flag bit `j` on (R97; 95_test_vectors section 4). -/
def disassemble (flags : List Byte) : (n j : Nat) → (records : List Byte) → Except DecodeError (List Token)
  | 0, _, _ => .ok []
  | n + 1, j, records =>
    match decodeToken (flagAt flags j) records with
    | .error e => .error e
    | .ok (t, rest) =>
      match disassemble flags n (j + 1) rest with
      | .error e => .error e
      | .ok ts => .ok (t :: ts)

/-- The host's numbering of the opcode table's bits. A row of 8 bits is a command byte. Any other width is a token: bit 0 is
its flag, and the bytes above the first are the bytes of the match region at the cursor (log 11). -/
def decodeTableWord (nbits w : Nat) : Option Instr :=
  match decode (if nbits = 8 then .cmd (BitVec.ofNat 8 w)
      else .token (w.testBit 0)
        [BitVec.ofNat 8 (w >>> 8), BitVec.ofNat 8 (w >>> 16), BitVec.ofNat 8 (w >>> 24)]) with
  | .ok i => some i
  | .error _ => none

end Sys2Proof
end

