-- ==== Sys2Proof/Config.lean ====
section
/-! DEFINITION. The parameters of the block (spec 00_scope R5) and the values the spec leaves open. -/

namespace Sys2Proof

/-- Precision of the symbol model in bits. -/
abbrev probBits : Nat := 12
/-- The fixed total of all frequencies, `2^PROB_BITS`. -/
abbrev probScale : Nat := 4096
/-- Upper bound on a match distance the parser emits. -/
abbrev window : Nat := 32768
/-- Least match length the parser emits. -/
abbrev minMatch : Nat := 3
/-- Greatest match length. -/
abbrev maxMatch : Nat := 255
/-- The container's magic number. -/
abbrev magicNumber : Word := 0x4D49444F#32
/-- Bytes of the container's header: six fields of 32 bits. -/
abbrev headerSize : Nat := 24
/-- Bytes of the model region, `256 * 2`. -/
abbrev modelSize : Nat := 512
/-- Number of symbols. -/
abbrev nsym : Nat := 256

/-- `BW_WRITE_AFTER_FLUSH` (93_implementation_defined U1). -/
inductive WriteAfterFlush where
  | allow | refuse
deriving DecidableEq, Repr

/-- `DEC_OVERSHOOT` (93_implementation_defined U5). -/
inductive Overshoot where
  | keep | truncate
deriving DecidableEq, Repr

/-- The parameters a model takes (00_scope R5, R6; INDEX "Parameters a model takes"). -/
structure Config where
  /-- `N_MAX`, the greatest input length. -/
  nMax : Nat
  /-- `RANS_L`, the lower renormalisation bound. -/
  ransL : Nat
  /-- `ENC_BOUND_SHIFT`: the encoder emits a byte while `state >= f * 2^ENC_BOUND_SHIFT`. -/
  encBoundShift : Nat
  /-- `BW_WRITE_AFTER_FLUSH`. -/
  bwWriteAfterFlush : WriteAfterFlush
  /-- `DEC_OVERSHOOT`. -/
  decOvershoot : Overshoot
deriving DecidableEq, Repr

/-- What a byte of a buffer reads as that nothing has written since the contents of the buffer became unspecified the `gen`-th
time (log 4): a free value, the same at every read of that byte (20_memory R64). -/
opaque Config.freeByte : (gen : Nat) → Space → (addr : Nat) → Byte

/-- What the register number `num` (10_state R22, R26) holds after the `epoch`-th `RESET` or `REINIT` left it unspecified
(log 5): a free value. -/
opaque Config.freeReg : (epoch : Nat) → (num : Nat) → Word

/-- The hardware this spec describes: `RANS_L = 65536`, `ENC_BOUND_SHIFT = 19` (00_scope R5; log 2), and the defaults of the two
optional parameters (log 3). `N_MAX` is OPEN: the state carries the parameters, statements about every state speak of every
`N_MAX`, and the value here, the greatest the spec allows, is only the one `State.reset` starts with (log 1). -/
def Config.hw : Config where
  nMax := 2 ^ 30
  ransL := 65536
  encBoundShift := 19
  bwWriteAfterFlush := .allow
  decOvershoot := .keep

/-- The bound on `N_MAX` (00_scope R5). -/
abbrev Config.Bounded (c : Config) : Prop := 1 ≤ c.nMax ∧ c.nMax ≤ 2 ^ 30

/-- The document's two rANS constants (00_scope R5). -/
abbrev Config.Documented (c : Config) : Prop := c.ransL = 65536 ∧ c.encBoundShift = 19

/-- `RenormConsistent` (00_scope R6): the condition on the two rANS constants under which decoding inverts encoding. -/
abbrev Config.RenormConsistent (c : Config) : Prop :=
  2 ^ c.encBoundShift = (c.ransL >>> probBits) <<< 8 ∧ probScale ≤ c.ransL ∧ c.ransL * 2 ^ 8 ≤ 2 ^ 32

end Sys2Proof
end

