-- ==== Sys2Proof/Machine/State.lean ====
section
/-! DEFINITION. The state of the block as plain data (spec 10_state R20, R22, R26, R32), the host's pending accesses, the error
kinds of 60_exceptions R261, and the state after reset (10_state R36). -/

namespace Sys2Proof.Machine

/-- The contents of one byte buffer: the cells that have been written, by address. -/
abbrev Memory := List Host.Cell

/-- The canonical form: addresses strictly rising. An unlisted address holds no value, so no entry can equal what an unlisted
address reads as. -/
def Memory.wf : Memory → Bool
  | [] => true
  | [_] => true
  | a :: b :: rest => decide (a.1 < b.1) && Memory.wf (b :: rest)

/-- A byte buffer with its length register (10_state R32). `gen` is the model's own: which unspecified contents the unwritten
bytes have (log 4). -/
structure Buf where
  len : Word
  mem : Memory
  gen : Nat
deriving DecidableEq, Repr

/-- The six header registers `HDR.*`, in the order of the header (44_container R211). -/
structure Header where
  magic : Word
  origSize : Word
  ransSize : Word
  flagsSize : Word
  matchSize : Word
  modelSize : Word
deriving DecidableEq, Repr

/-- One access of the host (00_scope R10): a register write by number (10_state R21, R22), where a write to number 0, `CMD`,
issues a command, or a write of one byte of a buffer. -/
inductive HostAction where
  | writeReg (num : Nat) (v : Word)
  | writeByte (sp : Space) (addr : Word) (b : Byte)
deriving DecidableEq, Repr

/-- The error kinds (60_exceptions R261). -/
inductive ErrKind where
  | ioOpen | badMagic | matchUnderflow | invalidDistance | emptyInput
  | truncated | badHeader | badModel | zeroFreq | notReady | sizeOverflow
deriving DecidableEq, Repr

/-- The valid bits (10_state R25). -/
inductive ValidBit where
  | ss | re | rd | br | lz | hdr | dec
deriving DecidableEq, Repr

/-- All the state the spec gives the block, and four fields of the model's own (`bwFlushed`, `epoch`, `pending`, `cfg`; logs
3, 5, 8, 1). The length registers are the `len` of the buffers. `cfg` holds the block's parameters, which no step changes. -/
structure State where
  cmd : Byte
  arg0 : Word
  arg1 : Word
  result : Word
  status : BitVec 8
  valid : BitVec 8
  hdr : Header
  bwCur : Byte
  bwCnt : BitVec 3
  brPos : Word
  reState : Word
  rdState : Word
  rdPtr : Word
  lzP : Word
  decMpos : Word
  raw : Vector Word 256
  freqs : Vector Half 256
  cum : Vector Half 257
  inp : Buf
  lit : Buf
  rans : Buf
  flags : Buf
  mtch : Buf
  model : Buf
  art : Buf
  out : Buf
  bwFlushed : Bool
  epoch : Nat
  pending : List HostAction
  cfg : Config
deriving DecidableEq, Repr

/-- Where the machine stops with a fault. The faults of the block's own commands are no stops: they are next states with
`STATUS.ERR` written (60_exceptions R272). -/
inductive Fault where
  /-- Raised by a host write of a buffer byte at an address at or above the buffer's capacity, which 20_memory R70 says does
  not exist. Safe: the model stops. -/
  | outsideBuffer (sp : Space) (addr : Nat)
deriving DecidableEq, Repr

/-- Where the model gives no next state. The refusals of the block's own commands are no stops: they are next states with
`STATUS` written (00_scope R11). -/
inductive Refusal where
  /-- Raised by an arm of `exec` that has no meaning yet. Safe: the model stops. -/
  | notModelled (mnemonic : String)
  /-- Raised by a host write to a register number that 10_state R22 and R26 do not list. Safe: the model stops. -/
  | noSuchRegister (num : Nat)
  /-- Raised by a host write of a byte of `OUT`, which 10_state R32 lets only `DEC.STEP` write. Safe: the model stops. -/
  | hostWriteToOut
deriving DecidableEq, Repr

/-- A buffer whose length is 0 and whose contents are unspecified (10_state R36). -/
def Buf.fresh (gen : Nat) : Buf := { len := 0#32, mem := [], gen := gen }

/-- The state after power-on for given parameters (10_state R36, 70_reset R302). The registers R36 leaves unspecified hold 0
(log 6, DESIGN CHOICE), and so does `CMD` (log 7). -/
def State.resetWith (c : Config) : State where
  cmd := 0#8
  arg0 := 0#32
  arg1 := 0#32
  result := 0#32
  status := 0#8
  valid := 0#8
  hdr := { magic := 0#32, origSize := 0#32, ransSize := 0#32, flagsSize := 0#32, matchSize := 0#32, modelSize := 0#32 }
  bwCur := 0#8
  bwCnt := 0#3
  brPos := 0#32
  reState := BitVec.ofNat 32 c.ransL
  rdState := 0#32
  rdPtr := 0#32
  lzP := 0#32
  decMpos := 0#32
  raw := Vector.replicate 256 0#32
  freqs := Vector.replicate 256 0#16
  cum := Vector.replicate 257 0#16
  inp := Buf.fresh 0
  lit := Buf.fresh 0
  rans := Buf.fresh 0
  flags := Buf.fresh 0
  mtch := Buf.fresh 0
  model := Buf.fresh 0
  art := Buf.fresh 0
  out := Buf.fresh 0
  bwFlushed := false
  epoch := 0
  pending := []
  cfg := c

/-- The machine right after reset. -/
def State.reset : State := State.resetWith Config.hw

end Sys2Proof.Machine
end

