-- ==== Sys2Proof/Machine/Flags.lean ====
section
/-! DEFINITION. The fields of `STATUS` and `VALID` (spec 10_state R24, R25). The flag bits of the compressed stream are data and
no status flags (R24). -/

namespace Sys2Proof.Machine

/-- The code of an error kind (60_exceptions R261). -/
def ErrKind.code : ErrKind → BitVec 4
  | .ioOpen => 1#4
  | .badMagic => 2#4
  | .matchUnderflow => 3#4
  | .invalidDistance => 4#4
  | .emptyInput => 5#4
  | .truncated => 8#4
  | .badHeader => 9#4
  | .badModel => 10#4
  | .zeroFreq => 11#4
  | .notReady => 12#4
  | .sizeOverflow => 13#4

/-- `STATUS` from its fields: `ERR` in bits 7:4, bits 3:1 zero, `DONE` in bit 0 (10_state R24). -/
def mkStatus (err : BitVec 4) (done : Bool) : BitVec 8 := err ++ 0#3 ++ BitVec.ofBool done

/-- `STATUS.ERR`. -/
def State.err (s : State) : BitVec 4 := s.status.extractLsb' 4 4

/-- `STATUS.DONE`. -/
def State.done (s : State) : Bool := s.status.getLsbD 0

/-- Write `STATUS.DONE`. -/
def State.setDone (b : Bool) (s : State) : State := { s with status := mkStatus s.err b }

/-- Record an error kind: the first one sticks (10_state R24: "the code of the first fault or refusal since reset"). -/
def State.recordErr (k : ErrKind) (s : State) : State :=
  if s.err = 0#4 then { s with status := mkStatus k.code s.done } else s

/-- The place of a valid bit (10_state R25). -/
def ValidBit.index : ValidBit → Nat
  | .ss => 0
  | .re => 1
  | .rd => 2
  | .br => 3
  | .lz => 4
  | .hdr => 5
  | .dec => 6

/-- `VALID.<unit>`. -/
def State.isValid (u : ValidBit) (s : State) : Bool := s.valid.getLsbD u.index

/-- `VALID.<unit> <- 1`. -/
def State.setValid (u : ValidBit) (s : State) : State := { s with valid := s.valid ||| (1#8 <<< u.index) }

/-- `VALID.<unit> <- 0`. -/
def State.clearValid (u : ValidBit) (s : State) : State := { s with valid := s.valid &&& ~~~(1#8 <<< u.index) }

end Sys2Proof.Machine
end

