-- ==== Sys2Proof/Machine/Ops.lean ====
section
/-! DEFINITION. The operations every command is written over: the buffers, capacities, the outcome of a unit operation, taking a
fault or a refusal, and putting the block back into its reset state. -/

namespace Sys2Proof.Machine

/-- The byte listed at an address; an unlisted address holds no value. -/
def Memory.get? : Memory → Nat → Option Byte
  | [], _ => none
  | (k, b) :: rest, a => if k = a then some b else Memory.get? rest a

/-- Write one byte, keeping the addresses strictly rising. -/
def Memory.set : Memory → Nat → Byte → Memory
  | [], a, b => [(a, b)]
  | (k, v) :: rest, a, b =>
    if a < k then (a, b) :: (k, v) :: rest
    else if k = a then (a, b) :: rest
    else (k, v) :: Memory.set rest a b

/-- `MemWrite` of several bytes, lowest address first (00_scope R14). -/
def Memory.setList : Memory → Nat → List Byte → Memory
  | m, _, [] => m
  | m, a, b :: bs => Memory.setList (m.set a b) (a + 1) bs

/-- The buffer of a space. -/
def State.buf (s : State) : Space → Buf
  | .inp => s.inp
  | .lit => s.lit
  | .rans => s.rans
  | .flags => s.flags
  | .mtch => s.mtch
  | .model => s.model
  | .art => s.art
  | .out => s.out

/-- Put a buffer into its space. -/
def State.setBuf (sp : Space) (b : Buf) (s : State) : State :=
  match sp with
  | .inp => { s with inp := b }
  | .lit => { s with lit := b }
  | .rans => { s with rans := b }
  | .flags => { s with flags := b }
  | .mtch => { s with mtch := b }
  | .model => { s with model := b }
  | .art => { s with art := b }
  | .out => { s with out := b }

/-- The length register of a space, as a number. -/
def State.len (s : State) (sp : Space) : Nat := (s.buf sp).len.toNat

/-- Write the length register of a space. -/
def State.setLen (sp : Space) (n : Word) (s : State) : State := s.setBuf sp { s.buf sp with len := n }

/-- `SPACE[a]` (00_scope R14): the byte last written there; where nothing has written, a free value (log 4). -/
def State.byte (s : State) (sp : Space) (a : Nat) : Byte :=
  match (s.buf sp).mem.get? a with
  | some b => b
  | none => Config.freeByte (s.buf sp).gen sp a

/-- `MemRead(SPACE:a, n)`, lowest address first. -/
def State.bytes (s : State) (sp : Space) (a n : Nat) : List Byte := (List.range n).map fun k => s.byte sp (a + k)

/-- `MemWrite(SPACE:a, …)` of the bytes listed. -/
def State.writeBytes (sp : Space) (a : Nat) (bs : List Byte) (s : State) : State :=
  s.setBuf sp { s.buf sp with mem := (s.buf sp).mem.setList a bs }

/-- `SPACE <- bs; SPACE_LEN <- |bs|`: the bytes from address 0 on, and the length register. -/
def State.load (sp : Space) (bs : List Byte) (s : State) : State :=
  (s.writeBytes sp 0 bs).setLen sp (BitVec.ofNat 32 bs.length)

/-- `BW.cur` and `BW.cnt`. -/
def State.setWriter (cur : Byte) (cnt : BitVec 3) (s : State) : State := { s with bwCur := cur, bwCnt := cnt }

/-- The model's own note that the BitWriter was flushed (log 3). -/
def State.setFlushed (b : Bool) (s : State) : State := { s with bwFlushed := b }

/-- `BR.pos`. -/
def State.setBrPos (p : Word) (s : State) : State := { s with brPos := p }

/-- `RE.state`. -/
def State.setReState (x : Word) (s : State) : State := { s with reState := x }

/-- `RD.state` and `RD.ptr`. -/
def State.setDecoder (x ptr : Word) (s : State) : State := { s with rdState := x, rdPtr := ptr }

/-- `LZ.p`. -/
def State.setLzP (p : Word) (s : State) : State := { s with lzP := p }

/-- `DEC.mpos`. -/
def State.setDecMpos (p : Word) (s : State) : State := { s with decMpos := p }

/-- The six registers `HDR.*`. -/
def State.setHdr (h : Header) (s : State) : State := { s with hdr := h }

/-- The register file `raw`. -/
def State.setRaw (r : Vector Word 256) (s : State) : State := { s with raw := r }

/-- The register files `freqs` and `cum`. -/
def State.setTables (f : Vector Half 256) (c : Vector Half 257) (s : State) : State := { s with freqs := f, cum := c }

/-- `RESULT`. -/
def State.setResult (v : Word) (s : State) : State := { s with result := v }

/-- `ceil(a / 8)`. -/
def ceilDiv8 (a : Nat) : Nat := (a + 7) / 8

/-- The capacity of a buffer in bytes (20_memory R70). -/
def capacity (c : Config) : Space → Nat
  | .inp => c.nMax
  | .lit => c.nMax
  | .rans => 2 * c.nMax + 4
  | .flags => ceilDiv8 c.nMax
  | .mtch => c.nMax
  | .model => modelSize
  | .art => headerSize + (2 * c.nMax + 4) + ceilDiv8 c.nMax + c.nMax + modelSize
  | .out => c.nMax + 254

/-- How a unit operation ends (00_scope R11). `raised` carries the state the pseudocode had reached (60_exceptions R272: "nothing
is rolled back"); `refused` carries none, since a refusal changes nothing but `STATUS` (R270; log 12). -/
inductive Res (α : Type) where
  | ok (a : α) (s : State)
  | raised (k : ErrKind) (s : State)
  | refused

/-- Go on after a unit operation that ended `ok`; a fault or a refusal of an invoked command is that of the caller
(45_orchestration R230). -/
def Res.bind {α β : Type} (r : Res α) (f : α → State → Res β) : Res β :=
  match r with
  | .ok a s => f a s
  | .raised k s => .raised k s
  | .refused => .refused

/-- The checks at the start of a command, in the order of 60_exceptions R274: a failed precondition refuses, then an input
buffer whose length register exceeds its capacity raises `SizeOverflow` (R268). -/
def checked {α : Type} (c : Config) (pre : Bool) (inputs : List Space) (s : State) (go : Unit → Res α) : Res α :=
  if pre = false then .refused
  else if inputs.any (fun sp => decide (capacity c sp < s.len sp)) then .raised .sizeOverflow s
  else go ()

/-- `append(SPACE, b)` (00_scope R14). It refuses where it would carry the length register past the capacity (20_memory R70;
log 13). -/
def append (c : Config) (sp : Space) (b : Byte) (s : State) : Res Unit :=
  if s.len sp < capacity c sp then
    .ok () ((s.writeBytes sp (s.len sp) [b]).setLen sp ((s.buf sp).len + 1#32))
  else .refused

/-- Appends in the order listed. -/
def appendList (c : Config) (sp : Space) : List Byte → State → Res Unit
  | [], s => .ok () s
  | b :: bs, s => (append c sp b s).bind fun _ s => appendList c sp bs s

/-- Taking a fault (60_exceptions R272): everything done before the `raise` stays, `STATUS.ERR` takes the code, `STATUS.DONE`
becomes 1. There is no handler, no saved register, and no return: only `RESET` goes on (R271, R278). -/
def State.takeFault (k : ErrKind) (s : State) : State := (s.recordErr k).setDone true

/-- Taking a refusal (00_scope R11, 60_exceptions R270): only `STATUS` changes, and a code that stands there is kept. -/
def State.takeRefusal (s : State) : State := (s.recordErr .notReady).setDone true

/-- The end of a command that was started in `s` (00_scope R11). -/
def finish (s : State) : Res Unit → State
  | .ok _ t => t.setDone true
  | .raised k t => t.takeFault k
  | .refused => s.takeRefusal

/-- A command other than `RESET`: refused while `STATUS.ERR` is not 0 (10_state R24), else run to its end. -/
def command (body : State → Res Unit) (s : State) : Host.Outcome State Fault Refusal :=
  .next (if s.err = 0#4 then finish s (body s) else s.takeRefusal)

/-- `n` entries given by a function of the index. -/
def tabulate {α : Type} (n : Nat) (f : Nat → α) : Vector α n :=
  ⟨((List.range n).map f).toArray, by simp⟩

/-- Register values left unspecified (93_implementation_defined U14): free values of the given epoch (log 5). -/
def Header.unspecified (epoch : Nat) : Header where
  magic := Config.freeReg epoch 0x08
  origSize := Config.freeReg epoch 0x09
  ransSize := Config.freeReg epoch 0x0A
  flagsSize := Config.freeReg epoch 0x0B
  matchSize := Config.freeReg epoch 0x0C
  modelSize := Config.freeReg epoch 0x0D

/-- The unit state of 70_reset R300 put back: valid bits, unit registers and all buffers but those `keep` names; what R300
leaves unspecified becomes a free value of a new epoch. -/
def State.wipe (c : Config) (keep : Space → Bool) (s : State) : State :=
  let e := s.epoch + 1
  let fresh (sp : Space) : Buf := if keep sp then s.buf sp else Buf.fresh e
  { s with
    valid := 0#8
    hdr := Header.unspecified e
    bwCur := 0#8
    bwCnt := 0#3
    brPos := 0#32
    reState := BitVec.ofNat 32 c.ransL
    rdState := Config.freeReg e 0x1A
    rdPtr := Config.freeReg e 0x1B
    lzP := 0#32
    decMpos := 0#32
    raw := tabulate 256 fun i => Config.freeReg e (0x100 + i)
    freqs := tabulate 256 fun i => (Config.freeReg e (0x200 + i)).setWidth 16
    cum := tabulate 257 fun i => (Config.freeReg e (0x300 + i)).setWidth 16
    inp := fresh .inp
    lit := fresh .lit
    rans := fresh .rans
    flags := fresh .flags
    mtch := fresh .mtch
    model := fresh .model
    art := fresh .art
    out := fresh .out
    bwFlushed := false
    epoch := e }

/-- `REINIT` keeping one buffer and its length register (70_reset R306): `ARG0`, `ARG1`, `RESULT` and `STATUS` stay. -/
def State.reinit (c : Config) (kept : Space) (s : State) : State := s.wipe c fun sp => decide (sp = kept)

/-- The effect of `RESET` (70_reset R300): also the operand, result and status registers. -/
def State.resetAll (c : Config) (s : State) : State :=
  { s.wipe c (fun _ => false) with arg0 := 0#32, arg1 := 0#32, result := 0#32, status := 0#8 }

end Sys2Proof.Machine
end

