-- ==== Sys2Proof/Machine/Operands.lean ====
section
/-! DEFINITION. How operands are assembled (spec 30_encoding R96, R101): from `ARG0` and `ARG1`, from the header, from the match
region and the flag region, and from the model. -/

namespace Sys2Proof.Machine

/-- `le32(b0, b1, b2, b3)` (00_scope R13): `b0` is the byte at the lowest address. -/
def le32 (b0 b1 b2 b3 : Byte) : Word := b3 ++ b2 ++ b1 ++ b0

/-- `bytes_le32(v)` (00_scope R13). -/
def bytesLe32 (v : Word) : List Byte :=
  [v.extractLsb' 0 8, v.extractLsb' 8 8, v.extractLsb' 16 8, v.extractLsb' 24 8]

/-- The 32-bit field at `SPACE:a`. -/
def State.field32 (s : State) (sp : Space) (a : Nat) : Word :=
  le32 (s.byte sp a) (s.byte sp (a + 1)) (s.byte sp (a + 2)) (s.byte sp (a + 3))

/-- The 16-bit field at `SPACE:a`. -/
def State.field16 (s : State) (sp : Space) (a : Nat) : Half := le16 (s.byte sp a) (s.byte sp (a + 1))

/-- `b = ARG0[0]` of `BW.WBIT` (30_encoding R101). -/
def State.argBit (s : State) : Bool := s.arg0.getLsbD 0

/-- `s = ARG0[7:0]` of `RE.PUT` (30_encoding R101). -/
def State.argSymbol (s : State) : Byte := s.arg0.extractLsb' 0 8

/-- `freqs[s]`. -/
def State.freq (s : State) (sym : Byte) : Nat := (s.freqs[sym.toNat]?.getD 0#16).toNat

/-- `cum[i]` for `i = 0 .. 256`. -/
def State.cumAt (s : State) (i : Nat) : Nat := (s.cum[i]?.getD 0#16).toNat

/-- `cum[256] == PROB_SCALE` (42_rans R172). -/
def State.modelFull (s : State) : Bool := s.cumAt 256 == probScale

/-- The flag bit at `BR.pos`: 0 past the end of `FLAGS` (30_encoding R96). -/
def State.flagHere (s : State) : Bool :=
  if s.brPos.toNat < 8 * s.len .flags then flagBit (s.byte .flags (s.brPos.toNat / 8)) s.brPos.toNat else false

/-- The bytes of `MATCH` from `DEC.mpos` on, at most the three of one record. -/
def State.recordHere (s : State) : List Byte :=
  s.bytes .mtch s.decMpos.toNat (min 3 (s.len .mtch - s.decMpos.toNat))

/-- The token at the decoder's cursor (10_state R30). -/
def State.tokenHere (s : State) : Except DecodeError (Token × List Byte) := decodeToken s.flagHere s.recordHere

end Sys2Proof.Machine
end

