-- ==== Sys2Proof/Machine/Container.lean ====
section
/-! DEFINITION. The container (spec 44_container): `CT.PACK`, `CT.UNPACK`; the layout of the artifact is 20_memory R66. -/

namespace Sys2Proof.Machine

/-- The header in `ART:0 .. ART:23` (30_encoding R94). -/
def headerBytes (h : Header) : List Byte :=
  bytesLe32 h.magic ++ bytesLe32 h.origSize ++ bytesLe32 h.ransSize ++ bytesLe32 h.flagsSize ++
    bytesLe32 h.matchSize ++ bytesLe32 h.modelSize

/-- A whole buffer, `SPACE[0 .. SPACE_LEN)`. -/
def State.contents (s : State) (sp : Space) : List Byte := s.bytes sp 0 (s.len sp)

/-- The header `CT.PACK` computes (44_container R212). -/
def packHeader (s : State) : Header where
  magic := magicNumber
  origSize := s.inp.len
  ransSize := s.rans.len
  flagsSize := s.flags.len
  matchSize := s.mtch.len
  modelSize := s.model.len

/-- The artifact: the header and the four regions in order, neither interleaved nor padded (44_container R210). -/
def packBytes (s : State) : List Byte :=
  headerBytes (packHeader s) ++ s.contents .rans ++ s.contents .flags ++ s.contents .mtch ++ s.contents .model

/-- `CT.PACK` (44_container R212). -/
def ctPack (c : Config) (s : State) : Res Unit :=
  checked c (s.len .model == modelSize && s.bwCnt == 0#3 && !s.isValid .re) [.rans, .flags, .mtch, .model] s fun _ =>
    .ok () (((s.setHdr (packHeader s)).load .art (packBytes s)).setValid .hdr)

/-- The header fields of the artifact in `ART`. -/
def artHeader (s : State) : Header where
  magic := s.field32 .art 0
  origSize := s.field32 .art 4
  ransSize := s.field32 .art 8
  flagsSize := s.field32 .art 12
  matchSize := s.field32 .art 16
  modelSize := s.field32 .art 20

/-- The four regions taken out of `ART` at the sizes `r`, `f`, `m` of the header. -/
def unpackRegions (r f m : Nat) (s : State) : State :=
  let rans := s.bytes .art headerSize r
  let flags := s.bytes .art (headerSize + r) f
  let mtch := s.bytes .art (headerSize + r + f) m
  let model := s.bytes .art (headerSize + r + f + m) modelSize
  (((s.load .rans rans).load .flags flags).load .mtch mtch).load .model model

/-- `CT.UNPACK` (44_container R214): the checks in the order of its pseudocode, the sums formed exactly. -/
def ctUnpack (c : Config) (s : State) : Res Unit :=
  checked c true [.art] s fun _ =>
    if s.len .art < headerSize then .raised .truncated s
    else
      let h := artHeader s
      if h.magic ≠ magicNumber then .raised .badMagic (s.setHdr { s.hdr with magic := h.magic })
      else
        let t := s.setHdr h
        let r := h.ransSize.toNat
        let f := h.flagsSize.toNat
        let m := h.matchSize.toNat
        if h.modelSize.toNat ≠ modelSize ∨ r < 4 then .raised .badHeader t
        else if s.len .art < headerSize + r + f + m + h.modelSize.toNat then .raised .truncated t
        else if capacity c .rans < r ∨ capacity c .flags < f ∨ capacity c .mtch < m then .raised .sizeOverflow t
        else .ok () ((unpackRegions r f m t).setValid .hdr)

/-- Meaning of `CT.PACK`. -/
def execCtPack (s : State) : Host.Outcome State Fault Refusal := command (ctPack s.cfg) s

/-- Meaning of `CT.UNPACK`. -/
def execCtUnpack (s : State) : Host.Outcome State Fault Refusal := command (ctUnpack s.cfg) s

end Sys2Proof.Machine
end

