-- ==== Sys2Proof/Machine/BitIo.lean ====
section
/-! DEFINITION. BitWriter and BitReader (spec 40_bitio): `BW.INIT`, `BW.WBIT`, `BW.WBITS`, `BW.FLUSH`, `BW.BYTES`, `BR.INIT`,
`BR.RBIT`, `BR.RBITS`. A unit operation takes its operand and gives its result directly (45_orchestration R230); the command
reads `ARG0`, `ARG1` and writes `RESULT`. -/

namespace Sys2Proof.Machine

/-- `BW.INIT` (40_bitio R122). -/
def bwInit (s : State) : State := ((s.setLen .flags 0#32).setWriter 0#8 0#3).setFlushed false

/-- Whether the BitWriter takes a bit: always, but under `BW_WRITE_AFTER_FLUSH = refuse` (93_implementation_defined U1). -/
def bwOpen (c : Config) (s : State) : Bool := !(decide (c.bwWriteAfterFlush = .refuse) && s.bwFlushed)

/-- `BW.WBIT b` (40_bitio R123): fills bit 7 of the current byte first; the 8th bit appends the byte. -/
def bwWbit (c : Config) (b : Bool) (s : State) : Res Unit :=
  checked c (bwOpen c s) [] s fun _ =>
    let cur := s.bwCur ||| ((BitVec.ofBool b).setWidth 8 <<< (7 - s.bwCnt.toNat))
    if s.bwCnt = 7#3 then
      (append c .flags cur s).bind fun _ s => .ok () (s.setWriter 0#8 0#3)
    else .ok () (s.setWriter cur (s.bwCnt + 1#3))

/-- The bits `n-1`, …, `0` of `v`, in that order. -/
def bwBits (c : Config) (v : Word) : (n : Nat) → State → Res Unit
  | 0, s => .ok () s
  | n + 1, s => (bwWbit c (v.getLsbD n) s).bind fun _ s => bwBits c v n s

/-- `BW.WBITS v, n` (40_bitio R125): the low `n` bits of `v`, most significant first; `n` above 32 is refused. -/
def bwWbits (c : Config) (v n : Word) (s : State) : Res Unit :=
  checked c (decide (n.toNat ≤ 32) && bwOpen c s) [] s fun _ => bwBits c v n.toNat s

/-- `BW.FLUSH` (40_bitio R124): appends the partial byte, if any. -/
def bwFlush (c : Config) (s : State) : Res Unit :=
  if s.bwCnt = 0#3 then .ok () (s.setFlushed true)
  else (append c .flags s.bwCur s).bind fun _ s => .ok () ((s.setWriter 0#8 0#3).setFlushed true)

/-- `BR.INIT` (40_bitio R127). -/
def brInit (c : Config) (s : State) : Res Unit :=
  checked c true [.flags] s fun _ => .ok () ((s.setBrPos 0#32).setValid .br)

/-- `BR.RBIT` (40_bitio R128): the flag bit at `BR.pos`, 0 past the end with `BR.pos` unchanged. -/
def brRbit (c : Config) (s : State) : Res Bool :=
  checked c (s.isValid .br) [.flags] s fun _ =>
    if s.brPos.toNat < 8 * s.len .flags then .ok s.flagHere (s.setBrPos (s.brPos + 1#32))
    else .ok false s

/-- `n` reads, the first bit read becoming the most significant. -/
def brBits (c : Config) : (n : Nat) → (v : Word) → State → Res Word
  | 0, v, s => .ok v s
  | n + 1, v, s => (brRbit c s).bind fun b s => brBits c n ((v <<< 1) ||| (BitVec.ofBool b).setWidth 32) s

/-- `BR.RBITS n` (40_bitio R129). -/
def brRbits (c : Config) (n : Word) (s : State) : Res Word :=
  checked c (s.isValid .br && decide (n.toNat ≤ 32)) [.flags] s fun _ => brBits c n.toNat 0#32 s

/-- `RESULT <- v` at the end of a command (10_state R22). -/
def setResult (v : Word) (s : State) : Res Unit := .ok () (s.setResult v)

/-- Meaning of `BW.INIT`. -/
def execBwInit (s : State) : Host.Outcome State Fault Refusal := command (fun s => .ok () (bwInit s)) s

/-- Meaning of `BW.WBIT`: `b = ARG0[0]`. -/
def execBwWbit (s : State) : Host.Outcome State Fault Refusal := command (fun s => bwWbit s.cfg s.argBit s) s

/-- Meaning of `BW.WBITS`: `v = ARG0`, `n = ARG1`. -/
def execBwWbits (s : State) : Host.Outcome State Fault Refusal := command (fun s => bwWbits s.cfg s.arg0 s.arg1 s) s

/-- Meaning of `BW.FLUSH`. -/
def execBwFlush (s : State) : Host.Outcome State Fault Refusal := command (bwFlush s.cfg) s

/-- Meaning of `BW.BYTES` (40_bitio R126): `RESULT <- FLAGS_LEN`. -/
def execBwBytes (s : State) : Host.Outcome State Fault Refusal := command (fun s => setResult s.flags.len s) s

/-- Meaning of `BR.INIT`. -/
def execBrInit (s : State) : Host.Outcome State Fault Refusal := command (brInit s.cfg) s

/-- Meaning of `BR.RBIT`: the bit in `RESULT[0]`, the rest of `RESULT` 0. -/
def execBrRbit (s : State) : Host.Outcome State Fault Refusal :=
  command (fun s => (brRbit s.cfg s).bind fun b s => setResult ((BitVec.ofBool b).setWidth 32) s) s

/-- Meaning of `BR.RBITS`: `n = ARG0`. -/
def execBrRbits (s : State) : Host.Outcome State Fault Refusal :=
  command (fun s => (brRbits s.cfg s.arg0 s).bind setResult) s

end Sys2Proof.Machine
end

