-- ==== Sys2Proof/Machine/Rans.lean ====
section
/-! DEFINITION. The rANS encoder and decoder (spec 42_rans): `RE.INIT`, `RE.PUT`, `RE.FLUSH`, `RD.INIT`, `RD.GET`. -/

namespace Sys2Proof.Machine

/-- `RE.INIT` (42_rans R161). -/
def reInit (c : Config) (s : State) : State :=
  ((s.setReState (BitVec.ofNat 32 c.ransL)).setLen .rans 0#32).setValid .re

/-- Renormalise-out (42_rans R162): while the state is at or above the bound, its low byte is appended and shifted out. Four
shifts empty a 32-bit state, so `fuel = 4` is the whole loop for a bound of at least 1. -/
def emitBytes (c : Config) (bound : Nat) : (fuel : Nat) → State → Res Unit
  | 0, s => .ok () s
  | fuel + 1, s =>
    if bound ≤ s.reState.toNat then
      (append c .rans (s.reState.extractLsb' 0 8) s).bind fun _ s =>
        emitBytes c bound fuel (s.setReState (s.reState >>> 8))
    else .ok () s

/-- The encoder's update (42_rans R162): `(state / f) * PROB_SCALE + (state mod f) + c`. -/
def encUpdate (x f c : Nat) : Nat := x / f * probScale + x % f + c

/-- `RE.PUT s` (42_rans R162, R163). -/
def rePut (c : Config) (sym : Byte) (s : State) : Res Unit :=
  checked c (s.isValid .re && s.isValid .ss) [] s fun _ =>
    let f := s.freq sym
    let cumLow := s.cumAt sym.toNat
    if f = 0 then .raised .zeroFreq s
    else (emitBytes c (f * 2 ^ c.encBoundShift) 4 s).bind fun _ s =>
      .ok () (s.setReState (BitVec.ofNat 32 (encUpdate s.reState.toNat f cumLow)))

/-- `RE.FLUSH` (42_rans R168): the four state bytes, low byte first; the encoder is closed. -/
def reFlush (c : Config) (s : State) : Res Unit :=
  checked c (s.isValid .re) [] s fun _ =>
    (appendList c .rans (bytesLe32 s.reState) s).bind fun _ s => .ok () (s.clearValid .re)

/-- `RD.INIT` (42_rans R170): the last four bytes of `RANS` are the state. -/
def rdInit (c : Config) (s : State) : Res Unit :=
  checked c (decide (4 ≤ s.len .rans)) [.rans] s fun _ =>
    .ok () ((s.setDecoder (s.field32 .rans (s.len .rans - 4)) (s.rans.len - 4#32)).setValid .rd)

/-- The least symbol `i`, counted from `sym`, with `slot < cum[i+1]` (42_rans R171). -/
def lookupFrom (cumAt : Nat → Nat) (slot : Nat) : (fuel sym : Nat) → Nat
  | 0, sym => sym
  | fuel + 1, sym => if slot < cumAt (sym + 1) then sym else lookupFrom cumAt slot fuel (sym + 1)

/-- `lookup(slot)` (42_rans R171). -/
def State.lookup (s : State) (slot : Nat) : Byte := BitVec.ofNat 8 (lookupFrom s.cumAt slot 255 0)

/-- The decoder's update (42_rans R172): `(state >> PROB_BITS) * f + slot - c`. -/
def decUpdate (x f slot c : Nat) : Nat := (x >>> probBits) * f + slot - c

/-- Renormalise-in (42_rans R172): while the state is below `RANS_L` and the pointer above 0, the byte below the pointer is
shifted in. Bytes are read where the pointer stands, whatever `RANS_LEN` is by now (70_reset R316). -/
def refill (c : Config) (s : State) : (ptr : Nat) → (x : Word) → Word × Nat
  | 0, x => (x, 0)
  | ptr + 1, x =>
    if x.toNat < c.ransL then refill c s ptr ((x <<< 8) ||| (s.byte .rans ptr).setWidth 32) else (x, ptr + 1)

/-- `RD.GET` (42_rans R172). -/
def rdGet (c : Config) (s : State) : Res Byte :=
  checked c (s.isValid .rd && s.isValid .ss && s.modelFull) [.rans] s fun _ =>
    let slot := s.rdState.toNat % probScale
    let sym := s.lookup slot
    let x := BitVec.ofNat 32 (decUpdate s.rdState.toNat (s.freq sym) slot (s.cumAt sym.toNat))
    let r := refill c s s.rdPtr.toNat x
    .ok sym (s.setDecoder r.1 (BitVec.ofNat 32 r.2))

/-- Meaning of `RE.INIT`. -/
def execReInit (s : State) : Host.Outcome State Fault Refusal := command (fun s => .ok () (reInit s.cfg s)) s

/-- Meaning of `RE.PUT`: `s = ARG0[7:0]`. -/
def execRePut (s : State) : Host.Outcome State Fault Refusal := command (fun s => rePut s.cfg s.argSymbol s) s

/-- Meaning of `RE.FLUSH`. -/
def execReFlush (s : State) : Host.Outcome State Fault Refusal := command (reFlush s.cfg) s

/-- Meaning of `RD.INIT`. -/
def execRdInit (s : State) : Host.Outcome State Fault Refusal := command (rdInit s.cfg) s

/-- Meaning of `RD.GET`: the symbol in `RESULT[7:0]`, the rest of `RESULT` 0. -/
def execRdGet (s : State) : Host.Outcome State Fault Refusal :=
  command (fun s => (rdGet s.cfg s).bind fun sym s => setResult (sym.setWidth 32) s) s

end Sys2Proof.Machine
end

