-- ==== Sys2Proof/Machine/DecodeLoop.lean ====
section
/-! DEFINITION. The decode loop and the two tokens (spec 45_orchestration R239 to R251): `DEC.INIT`, `DEC.STEP`, `DEC.RUN`,
`LIT`, `MATCH`. -/

namespace Sys2Proof.Machine

/-- `DEC.INIT` (45_orchestration R239). -/
def decInit (c : Config) (s : State) : Res Unit :=
  checked c (s.isValid .hdr) [] s fun _ =>
    if c.nMax < s.hdr.origSize.toNat then .raised .sizeOverflow s
    else .ok () (((s.setDecMpos 0#32).setLen .out 0#32).setValid .dec)

/-- The `LIT` token (45_orchestration R250): `s <- RD.GET; append(OUT, s)`. -/
def litToken (c : Config) (s : State) : Res Unit := (rdGet c s).bind fun sym s => append c .out sym s

/-- `n` bytes copied forward from `OUT:src`, one at a time, each append seen by later reads (20_memory R82). -/
def copyOut (c : Config) : (n src : Nat) → State → Res Unit
  | 0, _, s => .ok () s
  | n + 1, src, s => (append c .out (s.byte .out src) s).bind fun _ s => copyOut c n (src + 1) s

/-- The `MATCH` token once its record is read (45_orchestration R251): the record is consumed, the distance checked, then the
copy starts at `OUT_LEN - dist`. -/
def matchToken (c : Config) (dist : Half) (len : Byte) (s : State) : Res Unit :=
  let s := s.setDecMpos (s.decMpos + 3#32)
  if dist = 0#16 ∨ s.len .out < dist.toNat then .raised .invalidDistance s
  else copyOut c len.toNat (s.len .out - dist.toNat) s

/-- What `DEC.STEP` and `DEC.RUN` need (45_orchestration R240, R243): the valid bits and a full model. -/
def decReady (s : State) : Bool :=
  s.isValid .dec && s.isValid .hdr && s.isValid .br && s.isValid .rd && s.isValid .ss && s.modelFull

/-- `OUT_LEN < HDR.orig_size`, the loop's test (45_orchestration R243). -/
def decMore (s : State) : Bool := decide (s.len .out < s.hdr.origSize.toNat)

/-- `DEC.STEP` (45_orchestration R240): one flag bit, then the token it announces. -/
def decStep (c : Config) (s : State) : Res Unit :=
  checked c (decReady s && decMore s) [.flags, .mtch, .rans, .out] s fun _ =>
    (brRbit c s).bind fun b s =>
      match decodeToken b s.recordHere with
      | .ok (.lit, _) => litToken c s
      | .ok (.mtch dist len, _) => matchToken c dist len s
      | .error _ => .raised .matchUnderflow s

/-- `DEC.STEP` while `OUT_LEN < HDR.orig_size`, at most `fuel` times. -/
def decLoop (c : Config) : (fuel : Nat) → State → Res Unit
  | 0, s => .ok () s
  | fuel + 1, s => if decMore s then (decStep c s).bind fun _ s => decLoop c fuel s else .ok () s

/-- The end of `DEC.RUN`: nothing by default, a truncation under `DEC_OVERSHOOT = truncate` (45_orchestration R242;
93_implementation_defined U5). -/
def decEnd (c : Config) (s : State) : State :=
  if c.decOvershoot = .truncate ∧ s.hdr.origSize.toNat < s.len .out then s.setLen .out s.hdr.origSize else s

/-- `DEC.RUN` (45_orchestration R243). The loop ends after at most `HDR.orig_size + MATCH_LEN / 3` steps: each step appends a byte
or consumes a record. -/
def decRun (c : Config) (s : State) : Res Unit :=
  checked c (decReady s) [] s fun _ =>
    (decLoop c (s.hdr.origSize.toNat + s.len .mtch / 3) s).bind fun _ s => .ok () (decEnd c s)

/-- Whether the token at the cursor is `LIT`. -/
def litHere (s : State) : Bool :=
  match s.tokenHere with
  | .ok (.lit, _) => true
  | .ok (.mtch _ _, _) => false
  | .error _ => false

/-- Whether the token at the cursor is this `MATCH`, or a flag 1 whose record is cut short (which raises `MatchUnderflow`). -/
def matchHere (dist : Half) (len : Byte) (s : State) : Bool :=
  match s.tokenHere with
  | .ok (.lit, _) => false
  | .ok (.mtch d l, _) => d == dist && l == len
  | .error _ => true

/-- Meaning of the token `LIT` (45_orchestration R250), executed as `DEC.STEP` executes it. Its precondition, that it is the
token at the cursor, is checked like every other; a failed one refuses (log 10). -/
def execLit (s : State) : Host.Outcome State Fault Refusal :=
  command (fun s => if litHere s then decStep s.cfg s else .refused) s

/-- Meaning of the token `MATCH dist, len` (45_orchestration R251), executed as `DEC.STEP` executes it (log 10). -/
def execMatchTok (dist : Half) (len : Byte) (s : State) : Host.Outcome State Fault Refusal :=
  command (fun s => if matchHere dist len s then decStep s.cfg s else .refused) s

/-- Meaning of `DEC.INIT`. -/
def execDecInit (s : State) : Host.Outcome State Fault Refusal := command (decInit s.cfg) s

/-- Meaning of `DEC.STEP`. -/
def execDecStep (s : State) : Host.Outcome State Fault Refusal := command (decStep s.cfg) s

/-- Meaning of `DEC.RUN`. -/
def execDecRun (s : State) : Host.Outcome State Fault Refusal := command (decRun s.cfg) s

end Sys2Proof.Machine
end

