-- ==== Sys2Proof/Machine/Lz77.lean ====
section
/-! DEFINITION. The LZ77 parser (spec 43_lz77): `LZ.INIT`, `LZ.STEP`, `LZ.PARSE`. -/

namespace Sys2Proof.Machine

/-- `LZ.INIT` (43_lz77 R191): it does not touch the BitWriter. -/
def lzInit (s : State) : State := (((s.setLzP 0#32).setLen .lit 0#32).setLen .mtch 0#32).setValid .lz

/-- The match length of the candidate `i` at `p`, counted on from `l` (43_lz77 R194): at most `room` more bytes, the source
entirely before `p` (R196). -/
def matchLen (byteAt : Nat → Byte) (i p : Nat) : (room l : Nat) → Nat
  | 0, l => l
  | room + 1, l => if i + l < p ∧ byteAt (i + l) = byteAt (p + l) then matchLen byteAt i p room (l + 1) else l

/-- Steps 2 and 3 (43_lz77 R192, R195): candidates in ascending order, a strictly longer one wins. The answer is
`(best_len, best_i)`. -/
def bestMatch (byteAt : Nat → Byte) (p room : Nat) : (count i : Nat) → (best : Nat × Nat) → Nat × Nat
  | 0, _, best => best
  | count + 1, i, best =>
    let l := matchLen byteAt i p room 0
    bestMatch byteAt p room count (i + 1) (if best.1 < l then (l, i) else best)

/-- The search of one parser step at `p` in an input of `n` bytes: window start `w = max(0, p - WINDOW)`, search limit
`L = min(N, p + MAX_MATCH)`. -/
def searchAt (byteAt : Nat → Byte) (n p : Nat) : Nat × Nat :=
  bestMatch byteAt p (min n (p + maxMatch) - p) (p - (p - window)) (p - window) (0, 0)

/-- `LZ.STEP` (43_lz77 R192). -/
def lzStep (c : Config) (s : State) : Res Unit :=
  checked c (s.isValid .lz && decide (s.lzP.toNat < s.len .inp)) [.inp] s fun _ =>
    let p := s.lzP.toNat
    let best := searchAt (s.byte .inp) (s.len .inp) p
    if minMatch ≤ best.1 then
      (appendList c .mtch (bytesLe16 (BitVec.ofNat 16 (p - best.2)) ++ [BitVec.ofNat 8 best.1]) s).bind fun _ s =>
        (bwWbit c true s).bind fun _ s => .ok () (s.setLzP (s.lzP + BitVec.ofNat 32 best.1))
    else
      (append c .lit (s.byte .inp p) s).bind fun _ s =>
        (bwWbit c false s).bind fun _ s => .ok () (s.setLzP (s.lzP + 1#32))

/-- `LZ.STEP` while `LZ.p < IN_LEN`. Each step advances by at least 1, so `fuel = IN_LEN` is the whole loop. -/
def lzLoop (c : Config) : (fuel : Nat) → State → Res Unit
  | 0, s => .ok () s
  | fuel + 1, s =>
    if s.lzP.toNat < s.len .inp then (lzStep c s).bind fun _ s => lzLoop c fuel s else .ok () s

/-- `LZ.PARSE` (43_lz77 R197). -/
def lzParse (c : Config) (s : State) : Res Unit :=
  checked c true [.inp] s fun _ => lzLoop c (s.len .inp) (lzInit s)

/-- Meaning of `LZ.INIT`. -/
def execLzInit (s : State) : Host.Outcome State Fault Refusal := command (fun s => .ok () (lzInit s)) s

/-- Meaning of `LZ.STEP`. -/
def execLzStep (s : State) : Host.Outcome State Fault Refusal := command (lzStep s.cfg) s

/-- Meaning of `LZ.PARSE`. -/
def execLzParse (s : State) : Host.Outcome State Fault Refusal := command (lzParse s.cfg) s

end Sys2Proof.Machine
end

