-- ==== Sys2Proof/Machine/SymbolStats.lean ====
section
/-! DEFINITION. SymbolStats (spec 41_symbolstats): `SS.COUNT`, `SS.STORE`, `SS.LOAD`. The arithmetic is over natural numbers
(42_rans R180) and narrowed where it enters a register. -/

namespace Sys2Proof.Machine

/-- Step 3 for one symbol (41_symbolstats R143): `floor(raw * PROB_SCALE / N)`, forced to 1 for a seen symbol. -/
def scaleFreq (n raw : Nat) : Nat :=
  if raw = 0 then 0 else if raw * probScale / n = 0 then 1 else raw * probScale / n

/-- Step 4, deficit (R144): the whole deficit goes to index 0. -/
def addDeficit (d : Nat) : List Nat → List Nat
  | [] => []
  | f :: fs => (f + d) :: fs

/-- Step 4, excess (R145): from index `i` on, cyclically, 1 is taken from every entry above 1, and `T` is tested after every
single decrement. `fuel` bounds the visits: each pass over 256 entries takes at least 1 while `T > PROB_SCALE`. -/
def trimExcess : (fuel i t : Nat) → List Nat → List Nat
  | 0, _, _, fs => fs
  | fuel + 1, i, t, fs =>
    if probScale < t then
      if 1 < fs.getD i 0 then trimExcess fuel ((i + 1) % nsym) (t - 1) (fs.set i (fs.getD i 0 - 1))
      else trimExcess fuel ((i + 1) % nsym) t fs
    else fs

/-- Steps 2 to 4 (41_symbolstats R141): the frequencies of a tally of `n` symbols. -/
def normalise (n : Nat) (raw : List Nat) : List Nat :=
  if n = 0 then raw.map fun _ => 0
  else
    let scaled := raw.map (scaleFreq n)
    let t := scaled.sum
    if t < probScale then addDeficit (probScale - t) scaled
    else trimExcess (nsym * (t - probScale)) 0 t scaled

/-- Step 5 (R146): `cum[0] = 0`, `cum[s+1] = cum[s] + freqs[s]`. -/
def prefixSums : (acc : Nat) → List Nat → List Nat
  | acc, [] => [acc]
  | acc, f :: fs => acc :: prefixSums (acc + f) fs

/-- `freqs` and `cum` from a list of 256 frequencies, and `VALID.SS <- 1`. -/
def State.putModel (fs : List Nat) (s : State) : State :=
  (s.setTables (tabulate 256 fun i => BitVec.ofNat 16 (fs.getD i 0))
    (tabulate 257 fun i => BitVec.ofNat 16 ((prefixSums 0 fs).getD i 0))).setValid .ss

/-- Step 1 (R142): `raw[s]` is the number of indices `i < N` with `IN[i] == s`. -/
def tally (bs : List Byte) : List Nat := (List.range nsym).map fun sym => bs.count (BitVec.ofNat 8 sym)

/-- `SS.COUNT` (41_symbolstats R141). -/
def ssCount (c : Config) (s : State) : Res Unit :=
  checked c true [.inp] s fun _ =>
    let raw := tally (s.bytes .inp 0 (s.len .inp))
    .ok () ((s.setRaw (tabulate 256 fun i => BitVec.ofNat 32 (raw.getD i 0))).putModel (normalise (s.len .inp) raw))

/-- The 256 frequencies as the bytes of the model region, low byte first (30_encoding R95). -/
def modelBytes (s : State) : List Byte :=
  ((List.range nsym).map fun i => bytesLe16 (s.freqs[i]?.getD 0#16)).flatten

/-- `SS.STORE` (41_symbolstats R148). -/
def ssStore (c : Config) (s : State) : Res Unit :=
  checked c (s.isValid .ss) [] s fun _ => .ok () (s.load .model (modelBytes s))

/-- The 256 frequencies of the model region. -/
def regionFreqs (s : State) : List Nat := (List.range nsym).map fun i => (s.field16 .model (2 * i)).toNat

/-- `SS.LOAD` (41_symbolstats R150): the table verbatim, `BadModel` unless it sums to `PROB_SCALE`. -/
def ssLoad (c : Config) (s : State) : Res Unit :=
  checked c (s.len .model == modelSize) [.model] s fun _ =>
    if (regionFreqs s).sum = probScale then .ok () (s.putModel (regionFreqs s)) else .raised .badModel s

/-- Meaning of `SS.COUNT`. -/
def execSsCount (s : State) : Host.Outcome State Fault Refusal := command (ssCount s.cfg) s

/-- Meaning of `SS.STORE`. -/
def execSsStore (s : State) : Host.Outcome State Fault Refusal := command (ssStore s.cfg) s

/-- Meaning of `SS.LOAD`. -/
def execSsLoad (s : State) : Host.Outcome State Fault Refusal := command (ssLoad s.cfg) s

end Sys2Proof.Machine
end

