-- ==== Sys2Proof/Machine/TopLevel.lean ====
section
/-! DEFINITION. The top-level commands: `RESET` (spec 70_reset R300) and the two composite commands `COMPRESS` and `DECOMPRESS`
(45_orchestration R231 to R238), written as sequences of unit operations (R230). -/

namespace Sys2Proof.Machine

/-- `RE.PUT LIT[j]` for `j = n-1` down to 0: the literals in reverse token order (42_rans R174). -/
def putLiterals (c : Config) : (n : Nat) → State → Res Unit
  | 0, s => .ok () s
  | n + 1, s => (rePut c (s.byte .lit n) s).bind fun _ s => putLiterals c n s

/-- What `COMPRESS` does once the block is re-initialised and the input is not empty (45_orchestration R234). -/
def compressStages (c : Config) (s : State) : Res Unit :=
  (ssCount c s).bind fun _ s =>
  (lzParse c (bwInit s)).bind fun _ s =>
  (bwFlush c s).bind fun _ s =>
  (putLiterals c (s.len .lit) (reInit c s)).bind fun _ s =>
  (reFlush c s).bind fun _ s =>
  (ssStore c s).bind fun _ s =>
  ctPack c s

/-- `COMPRESS` (45_orchestration R234, R232). -/
def compress (c : Config) (s : State) : Res Unit :=
  checked c true [.inp] s fun _ =>
    let t := s.reinit c .inp
    if t.len .inp = 0 then .raised .emptyInput t else compressStages c t

/-- `DECOMPRESS` (45_orchestration R236). -/
def decompress (c : Config) (s : State) : Res Unit :=
  checked c true [.art] s fun _ =>
    (ctUnpack c (s.reinit c .art)).bind fun _ s =>
    (ssLoad c s).bind fun _ s =>
    (rdInit c s).bind fun _ s =>
    (brInit c s).bind fun _ s =>
    (decInit c s).bind fun _ s =>
    decRun c s

/-- Meaning of `RESET` (70_reset R300): accepted whatever `STATUS.ERR` is, it cannot fault, and `DONE` reads 0 after it. -/
def execReset (s : State) : Host.Outcome State Fault Refusal := .next (s.resetAll s.cfg)

/-- Meaning of `COMPRESS`. -/
def execCompress (s : State) : Host.Outcome State Fault Refusal := command (compress s.cfg) s

/-- Meaning of `DECOMPRESS`. -/
def execDecompress (s : State) : Host.Outcome State Fault Refusal := command (decompress s.cfg) s

end Sys2Proof.Machine
end

