-- ==== Sys2Proof/Machine/Dispatch.lean ====
section
/-! DEFINITION. The dispatch: one arm per constructor of `Instr`, each one direct call of the instruction's meaning. -/

namespace Sys2Proof.Machine

def exec (i : Instr) (s : State) : Host.Outcome State Fault Refusal :=
  match i with
  | .lit => Sys2Proof.Machine.execLit s
  | .matchTok dist len => Sys2Proof.Machine.execMatchTok dist len s
  | .reset => Sys2Proof.Machine.execReset s
  | .compress => Sys2Proof.Machine.execCompress s
  | .decompress => Sys2Proof.Machine.execDecompress s
  | .bwInit => Sys2Proof.Machine.execBwInit s
  | .bwWbit => Sys2Proof.Machine.execBwWbit s
  | .bwWbits => Sys2Proof.Machine.execBwWbits s
  | .bwFlush => Sys2Proof.Machine.execBwFlush s
  | .bwBytes => Sys2Proof.Machine.execBwBytes s
  | .brInit => Sys2Proof.Machine.execBrInit s
  | .brRbit => Sys2Proof.Machine.execBrRbit s
  | .brRbits => Sys2Proof.Machine.execBrRbits s
  | .ssCount => Sys2Proof.Machine.execSsCount s
  | .ssStore => Sys2Proof.Machine.execSsStore s
  | .ssLoad => Sys2Proof.Machine.execSsLoad s
  | .reInit => Sys2Proof.Machine.execReInit s
  | .rePut => Sys2Proof.Machine.execRePut s
  | .reFlush => Sys2Proof.Machine.execReFlush s
  | .rdInit => Sys2Proof.Machine.execRdInit s
  | .rdGet => Sys2Proof.Machine.execRdGet s
  | .lzInit => Sys2Proof.Machine.execLzInit s
  | .lzStep => Sys2Proof.Machine.execLzStep s
  | .lzParse => Sys2Proof.Machine.execLzParse s
  | .ctPack => Sys2Proof.Machine.execCtPack s
  | .ctUnpack => Sys2Proof.Machine.execCtUnpack s
  | .decInit => Sys2Proof.Machine.execDecInit s
  | .decStep => Sys2Proof.Machine.execDecStep s
  | .decRun => Sys2Proof.Machine.execDecRun s

end Sys2Proof.Machine
end

