-- ==== Sys2Proof/Machine/HostPort.lean ====
section
/-! DEFINITION. The host's side of the block (spec 00_scope R10, 10_state R21, R22, R32): reading and writing registers by number,
reading and writing buffer bytes, and how the next command is fetched from the host's pending accesses (log 8). -/

namespace Sys2Proof.Machine

/-- What the host reads from a register number (10_state R22, R26); `none` for `CMD`, which is write only, and for numbers the
tables do not list. A read has no side effect (20_memory R64). -/
def hostRead (num : Nat) (s : State) : Option Word :=
  match num with
  | 0x01 => some s.arg0
  | 0x02 => some s.arg1
  | 0x03 => some s.result
  | 0x04 => some (s.status.setWidth 32)
  | 0x05 => some s.inp.len
  | 0x06 => some s.art.len
  | 0x07 => some s.out.len
  | 0x08 => some s.hdr.magic
  | 0x09 => some s.hdr.origSize
  | 0x0A => some s.hdr.ransSize
  | 0x0B => some s.hdr.flagsSize
  | 0x0C => some s.hdr.matchSize
  | 0x0D => some s.hdr.modelSize
  | 0x0E => some (s.valid.setWidth 32)
  | 0x10 => some (s.bwCur.setWidth 32)
  | 0x11 => some (s.bwCnt.setWidth 32)
  | 0x12 => some s.flags.len
  | 0x13 => some s.brPos
  | 0x18 => some s.reState
  | 0x19 => some s.rans.len
  | 0x1A => some s.rdState
  | 0x1B => some s.rdPtr
  | 0x1C => some s.lzP
  | 0x1D => some s.lit.len
  | 0x1E => some s.mtch.len
  | 0x1F => some s.decMpos
  | 0x20 => some s.model.len
  | n =>
    if 0x100 ≤ n ∧ n < 0x200 then some (s.raw[n - 0x100]?.getD 0#32)
    else if 0x200 ≤ n ∧ n < 0x300 then some ((s.freqs[n - 0x200]?.getD 0#16).setWidth 32)
    else if 0x300 ≤ n ∧ n ≤ 0x400 then some ((s.cum[n - 0x300]?.getD 0#16).setWidth 32)
    else none

/-- What the host reads from the output buffers (00_scope R10; 10_state R32 names the host as a reader of `ART` and `OUT`): the byte
at an address below the length register; `none` beyond it, where a buffer holds no value, and for the buffers that only commands
read (log 20). -/
def hostReadByte (sp : Space) (addr : Nat) (s : State) : Option Byte :=
  if (sp = .art ∨ sp = .out) ∧ addr < min (s.len sp) (capacity s.cfg sp) then some (s.byte sp addr) else none

/-- A host write to a register other than `CMD`: the RW registers of 10_state R22 take the value, a write to a read-only register
is ignored (60_exceptions R282), and a number that no table lists is refused by name (log 9). -/
def hostWriteReg (num : Nat) (v : Word) (s : State) : Host.Outcome State Fault Refusal :=
  match num with
  | 0x01 => .next { s with arg0 := v }
  | 0x02 => .next { s with arg1 := v }
  | 0x05 => .next (s.setLen .inp v)
  | 0x06 => .next (s.setLen .art v)
  | 0x12 => .next (s.setLen .flags v)
  | 0x19 => .next (s.setLen .rans v)
  | 0x1D => .next (s.setLen .lit v)
  | 0x1E => .next (s.setLen .mtch v)
  | 0x20 => .next (s.setLen .model v)
  | n => if (hostRead n s).isSome then .next s else .refused (.noSuchRegister n)

/-- A host write of one byte of a buffer (10_state R32). -/
def hostWriteByte (sp : Space) (addr : Nat) (b : Byte) (s : State) : Host.Outcome State Fault Refusal :=
  if sp = .out then .refused .hostWriteToOut
  else if addr < capacity s.cfg sp then .next (s.writeBytes sp addr [b])
  else .fault (.outsideBuffer sp addr)

/-- A host access that issues no command. -/
def hostAccess (a : HostAction) (s : State) : Host.Outcome State Fault Refusal :=
  match a with
  | .writeReg num v => hostWriteReg num v s
  | .writeByte sp addr b => hostWriteByte sp addr.toNat b s

/-- What a step finds to do. -/
inductive Fetch where
  | idle
  | access (a : HostAction) (s : State)
  | command (i : Instr) (s : State)
  | reserved (s : State)

/-- The start of a command (10_state R24, 30_encoding R101): the low 8 bits of the value written go to `CMD`, and `STATUS.DONE` is
cleared before the command runs. -/
def State.issue (v : Word) (s : State) : State := { s with cmd := v.setWidth 8 }.setDone false

/-- The oldest pending access of the host; a write to `CMD` is decoded from the register. -/
def fetch (s : State) : Fetch :=
  match s.pending with
  | [] => .idle
  | .writeReg num v :: rest =>
    let t := { s with pending := rest }
    if num = 0x00 then
      let t := t.issue v
      match decodeCmd t.cmd with
      | .ok i => .command i t
      | .error _ => .reserved t
    else .access (.writeReg num v) t
  | .writeByte sp addr b :: rest => .access (.writeByte sp addr b) { s with pending := rest }

/-- A reserved `CMD` value is refused (30_encoding R104, 60_exceptions R270). -/
def reservedCommand (s : State) : Host.Outcome State Fault Refusal := .next s.takeRefusal

/-- The host's next access is the write of this code to `CMD`. -/
def State.withCommand (code : Byte) (s : State) : State :=
  { s with pending := .writeReg 0x00 (code.setWidth 32) :: s.pending }

/-- The stream the decode loop executes starts with this token: the flag at flag bit 0 and, for a match, the record at the
start of `MATCH`; the units `DEC.STEP` needs are valid, over the model in which symbol 0 has the whole scale; and the host's
next access issues `DEC.STEP`, which executes the token (log 8). -/
def State.withToken (flag : Bool) (record : List Byte) (s : State) : State :=
  let s := s.load .flags [packByte fun k => k == 0 && flag]
  let s := if flag then s.load .mtch record else s
  let s := ((((s.setValid .dec).setValid .hdr).setValid .br).setValid .rd).setValid .ss
  { s with
    brPos := 0#32
    decMpos := 0#32
    hdr := { s.hdr with origSize := s.out.len + 1#32 }
    freqs := tabulate 256 fun i => if i = 0 then 4096#16 else 0#16
    cum := tabulate 257 fun i => if i = 0 then 0#16 else 4096#16 }.withCommand 0x81#8

end Sys2Proof.Machine
end

