-- ==== Sys2Proof/Machine/Step.lean ====
section
/-! DEFINITION. One step: the oldest pending access of the host is performed; a write to `CMD` runs the whole command, which is
atomic (spec 00_scope R9). With nothing pending the block is idle (60_exceptions R288, 70_reset R302). -/

namespace Sys2Proof.Machine

/-- One step of the machine. -/
def step (s : State) : Host.Outcome State Fault Refusal :=
  match fetch s with
  | .idle => .next s
  | .access a t => hostAccess a t
  | .command i t => exec i t
  | .reserved t => reservedCommand t

/-- The state whose next step runs the instruction with the bits `w` as `decodeTableWord` reads them (log 11). -/
def State.withFetchWord (s : State) (nbits w : Nat) : State :=
  if nbits = 8 then s.withCommand (BitVec.ofNat 8 w)
  else s.withToken (w.testBit 0) [BitVec.ofNat 8 (w >>> 8), BitVec.ofNat 8 (w >>> 16), BitVec.ofNat 8 (w >>> 24)]

end Sys2Proof.Machine
end

