-- ==== Sys2Proof/Safety.lean ====
section
/-! DEFINITION. The terms the claims are stated in: the invariants of the state, what an instruction may write, the flag bits of a
buffer, a parser candidate, and what a token stream stands for. -/

namespace Sys2Proof.Machine

/-- Every buffer holds its memory in the canonical form. -/
def State.MemWf (s : State) : Prop := ∀ sp, (s.buf sp).mem.wf = true

/-- The reserved bits of `STATUS` (3:1) and `VALID` (7) read as 0 (10_state R24, R25). -/
def State.ReservedZero (s : State) : Prop := s.status.extractLsb' 1 3 = 0#3 ∧ s.valid.getLsbD 7 = false

/-- `BW.cur` has zeros below the `BW.cnt` bits already placed (10_state R23, 40_bitio R121). -/
def State.WriterInv (s : State) : Prop := ∀ j, j < 8 - s.bwCnt.toNat → s.bwCur.getLsbD j = false

/-- A symbol model whose cumulative table is the prefix sum of its frequencies and ends at `PROB_SCALE` (10_state R27). -/
def State.ModelOk (s : State) : Prop :=
  s.cumAt 0 = 0 ∧ (∀ sym : Byte, s.cumAt (sym.toNat + 1) = s.cumAt sym.toNat + s.freq sym) ∧ s.cumAt 256 = probScale

/-- The model of an empty input: all entries 0 (10_state R27). -/
def State.ModelEmpty (s : State) : Prop := (∀ sym : Byte, s.freq sym = 0) ∧ ∀ i, i ≤ 256 → s.cumAt i = 0

/-- The model invariant (10_state R27). -/
def State.ModelInv (s : State) : Prop := s.isValid .ss = true → s.ModelOk ∨ s.ModelEmpty

/-- The bounds of an open encoder's state (42_rans R176). -/
def State.EncoderInv (s : State) : Prop :=
  s.isValid .re = true → s.cfg.ransL ≤ s.reState.toNat ∧ s.reState.toNat < 2 ^ (s.cfg.encBoundShift + probBits)

/-- What 10_state R36 and 70_reset R300 say of every register and length they specify. -/
def ResetValues (s : State) : Prop :=
  s.arg0 = 0#32 ∧ s.arg1 = 0#32 ∧ s.result = 0#32 ∧ s.status = 0#8 ∧ s.valid = 0#8 ∧ (∀ sp, s.len sp = 0) ∧
    s.bwCur = 0#8 ∧ s.bwCnt = 0#3 ∧ s.brPos = 0#32 ∧ s.reState = BitVec.ofNat 32 s.cfg.ransL ∧ s.lzP = 0#32 ∧
    s.decMpos = 0#32

/-- What 70_reset R306 says a `REINIT` leaves that keeps one buffer and its length register. -/
def ReinitValues (kept : Space) (s : State) : Prop :=
  s.valid = 0#8 ∧ (∀ sp, sp ≠ kept → s.len sp = 0) ∧ s.bwCur = 0#8 ∧ s.bwCnt = 0#3 ∧ s.brPos = 0#32 ∧
    s.reState = BitVec.ofNat 32 s.cfg.ransL ∧ s.lzP = 0#32 ∧ s.decMpos = 0#32

/-- A register, a register file or a length register, or one of the model's own fields. -/
inductive Field where
  | cmd | arg0 | arg1 | result | status | valid | hdr | bwCur | bwCnt | brPos | reState | rdState | rdPtr | lzP | decMpos
  | raw | freqs | cum | len (sp : Space) | bwFlushed | epoch | pending | cfg
deriving DecidableEq, Repr

/-- Two states agree on a field. -/
def Field.Same (f : Field) (s t : State) : Prop :=
  match f with
  | .cmd => t.cmd = s.cmd
  | .arg0 => t.arg0 = s.arg0
  | .arg1 => t.arg1 = s.arg1
  | .result => t.result = s.result
  | .status => t.status = s.status
  | .valid => t.valid = s.valid
  | .hdr => t.hdr = s.hdr
  | .bwCur => t.bwCur = s.bwCur
  | .bwCnt => t.bwCnt = s.bwCnt
  | .brPos => t.brPos = s.brPos
  | .reState => t.reState = s.reState
  | .rdState => t.rdState = s.rdState
  | .rdPtr => t.rdPtr = s.rdPtr
  | .lzP => t.lzP = s.lzP
  | .decMpos => t.decMpos = s.decMpos
  | .raw => t.raw = s.raw
  | .freqs => t.freqs = s.freqs
  | .cum => t.cum = s.cum
  | .len sp => (t.buf sp).len = (s.buf sp).len
  | .bwFlushed => t.bwFlushed = s.bwFlushed
  | .epoch => t.epoch = s.epoch
  | .pending => t.pending = s.pending
  | .cfg => t.cfg = s.cfg

/-- Every field but those listed is unchanged from `s` to `t`. -/
def Unchanged (but : List Field) (s t : State) : Prop := ∀ f, f ∉ but → f.Same s t

/-- Every byte of every buffer reads in `t` as in `s`. -/
def AllBytesKept (s t : State) : Prop := ∀ sp a, t.byte sp a = s.byte sp a

/-- Every byte reads in `t` as in `s` but those of `SPACE:lo .. SPACE:hi-1`. -/
def BytesKeptOutside (sp : Space) (lo hi : Nat) (s t : State) : Prop :=
  ∀ x a, (x ≠ sp ∨ a < lo ∨ hi ≤ a) → t.byte x a = s.byte x a

/-- The fields a command that stores no byte may write. -/
def writesOf : Instr → List Field
  | .bwInit => [.status, .bwCur, .bwCnt, .len .flags, .bwFlushed]
  | .bwBytes => [.status, .result]
  | .brInit => [.status, .valid, .brPos]
  | .brRbit => [.status, .result, .brPos]
  | .brRbits => [.status, .result, .brPos]
  | .ssCount => [.status, .valid, .raw, .freqs, .cum]
  | .ssLoad => [.status, .valid, .freqs, .cum]
  | .reInit => [.status, .valid, .reState, .len .rans]
  | .rdInit => [.status, .valid, .rdState, .rdPtr]
  | .rdGet => [.status, .result, .rdState, .rdPtr]
  | .lzInit => [.status, .valid, .lzP, .len .lit, .len .mtch]
  | .decInit => [.status, .valid, .decMpos, .len .out]
  | .bwWbit => [.status, .bwCur, .bwCnt, .len .flags]
  | .bwWbits => [.status, .bwCur, .bwCnt, .len .flags]
  | .bwFlush => [.status, .bwCur, .bwCnt, .len .flags, .bwFlushed]
  | .ssStore => [.status, .len .model]
  | .rePut => [.status, .reState, .len .rans]
  | .reFlush => [.status, .valid, .len .rans]
  | .lzStep => [.status, .lzP, .len .lit, .len .mtch, .bwCur, .bwCnt, .len .flags]
  | .lzParse => [.status, .valid, .lzP, .len .lit, .len .mtch, .bwCur, .bwCnt, .len .flags]
  | .ctPack => [.status, .valid, .hdr, .len .art]
  | .ctUnpack => [.status, .valid, .hdr, .len .rans, .len .flags, .len .mtch, .len .model]
  | .decStep => [.status, .brPos, .rdState, .rdPtr, .decMpos, .len .out]
  | .decRun => [.status, .brPos, .rdState, .rdPtr, .decMpos, .len .out]
  | .lit => [.status, .brPos, .rdState, .rdPtr, .len .out]
  | .matchTok _ _ => [.status, .brPos, .decMpos, .len .out]
  | .compress => [.status, .valid, .hdr, .bwCur, .bwCnt, .brPos, .reState, .rdState, .rdPtr, .lzP, .decMpos, .raw, .freqs,
      .cum, .len .lit, .len .rans, .len .flags, .len .mtch, .len .model, .len .art, .len .out, .bwFlushed, .epoch]
  | .decompress => [.status, .valid, .hdr, .bwCur, .bwCnt, .brPos, .reState, .rdState, .rdPtr, .lzP, .decMpos, .raw, .freqs,
      .cum, .len .inp, .len .lit, .len .rans, .len .flags, .len .mtch, .len .model, .len .out, .bwFlushed, .epoch]
  | .reset => [.status, .valid, .arg0, .arg1, .result, .hdr, .bwCur, .bwCnt, .brPos, .reState, .rdState, .rdPtr, .lzP, .decMpos,
      .raw, .freqs, .cum, .len .inp, .len .lit, .len .rans, .len .flags, .len .mtch, .len .model, .len .art, .len .out,
      .bwFlushed, .epoch]

/-- Where a command starts to store in a buffer (45_orchestration R253): an append at the length register it finds, the parser's
outputs from 0 on (it empties them first), a region or an artifact from 0 on; `none` where it stores nothing. -/
def storesFrom (i : Instr) (s : State) (sp : Space) : Option Nat :=
  match i, sp with
  | .bwWbit, .flags => some (s.len .flags)
  | .bwWbits, .flags => some (s.len .flags)
  | .bwFlush, .flags => some (s.len .flags)
  | .ssStore, .model => some 0
  | .rePut, .rans => some (s.len .rans)
  | .reFlush, .rans => some (s.len .rans)
  | .lzStep, .lit => some (s.len .lit)
  | .lzStep, .mtch => some (s.len .mtch)
  | .lzStep, .flags => some (s.len .flags)
  | .lzParse, .lit => some 0
  | .lzParse, .mtch => some 0
  | .lzParse, .flags => some (s.len .flags)
  | .ctPack, .art => some 0
  | .ctUnpack, .rans => some 0
  | .ctUnpack, .flags => some 0
  | .ctUnpack, .mtch => some 0
  | .ctUnpack, .model => some 0
  | .decStep, .out => some (s.len .out)
  | .decRun, .out => some (s.len .out)
  | .lit, .out => some (s.len .out)
  | .matchTok _ _, .out => some (s.len .out)
  | _, _ => none

/-- Where a command stops to store in a buffer: at the length register it leaves, but for a `DEC.RUN` that may cut that register back
(`DEC_OVERSHOOT = truncate`), which stores at most 254 bytes past `HDR.orig_size` (45_orchestration R242). -/
def storesUpTo (i : Instr) (s t : State) (sp : Space) : Nat :=
  if i = .decRun ∧ s.cfg.decOvershoot = .truncate then s.hdr.origSize.toNat + 254 else t.len sp

/-- Flag bit `j` of the buffer `FLAGS`: bit `7 - (j mod 8)` of byte `j / 8`, 0 past the end (30_encoding R96). -/
def State.flagsBit (s : State) (j : Nat) : Bool :=
  decide (j < 8 * s.len .flags) && (s.byte .flags (j / 8)).getLsbD (7 - j % 8)

/-- The bits a BitWriter holds: those of `FLAGS`, most significant first, then the top `BW.cnt` bits of `BW.cur`
(40_bitio R121). -/
def State.writerBits (s : State) : List Bool :=
  (List.range (8 * s.len .flags)).map s.flagsBit ++ (List.range s.bwCnt.toNat).map fun k => s.bwCur.getLsbD (7 - k)

/-- `BW.WBIT` for each bit in order. -/
def writeAll (c : Config) : List Bool → State → Res Unit
  | [], s => .ok () s
  | b :: bs, s => (bwWbit c b s).bind fun _ s => writeAll c bs s

/-- `BR.RBIT` `n` times: the bits read, first one first. -/
def readAll (c : Config) : Nat → State → Res (List Bool)
  | 0, s => .ok [] s
  | n + 1, s => (brRbit c s).bind fun b s => (readAll c n s).bind fun bs s => .ok (b :: bs) s

/-- `RE.PUT` for each symbol in order. -/
def putAll (c : Config) : List Byte → State → Res Unit
  | [], s => .ok () s
  | sym :: syms, s => (rePut c sym s).bind fun _ s => putAll c syms s

/-- `RD.GET` `n` times: the symbols returned, first one first. -/
def getAll (c : Config) : Nat → State → Res (List Byte)
  | 0, s => .ok [] s
  | n + 1, s => (rdGet c s).bind fun sym s => (getAll c n s).bind fun syms s => .ok (sym :: syms) s

/-- A candidate start `i` with a common run of `l` bytes at the parse position (43_lz77 R194): within the window, before the
search limit `L = min(N, p + MAX_MATCH)`, and the source entirely before `p` (R196). -/
def State.Candidate (s : State) (i l : Nat) : Prop :=
  s.lzP.toNat - window ≤ i ∧ i < s.lzP.toNat ∧ s.lzP.toNat + l ≤ min (s.len .inp) (s.lzP.toNat + maxMatch) ∧
    i + l ≤ s.lzP.toNat ∧ ∀ k, k < l → s.byte .inp (i + k) = s.byte .inp (s.lzP.toNat + k)

/-- `n` bytes copied forward from index `src` of an output, one at a time (20_memory R82). -/
def copyForward : (n src : Nat) → List Byte → List Byte
  | 0, _, out => out
  | n + 1, src, out => copyForward n (src + 1) (out ++ [out.getD src 0#8])

/-- What a token stream stands for (43_lz77 R198): each flag 0 takes a literal, each flag 1 a record of three bytes; `none` where
the stream is cut short or a distance is no distance. -/
def replay : (flags : List Bool) → (lits records out : List Byte) → Option (List Byte)
  | [], _, _, out => some out
  | false :: fs, b :: lits, records, out => replay fs lits records (out ++ [b])
  | true :: fs, lits, d0 :: d1 :: len :: records, out =>
    if (le16 d0 d1).toNat = 0 ∨ out.length < (le16 d0 d1).toNat then none
    else replay fs lits records (copyForward len.toNat (out.length - (le16 d0 d1).toNat) out)
  | _ :: _, _, _, _ => none

/-- The symbol counts of the input (41_symbolstats R142). -/
def State.inputCount (s : State) (sym : Byte) : Nat :=
  ((List.range (s.len .inp)).filter fun i => s.byte .inp i == sym).length

/-- The scaled frequency of a symbol before the adjustment (41_symbolstats R143). -/
def State.scaled (s : State) (sym : Byte) : Nat :=
  if s.inputCount sym = 0 then 0 else max 1 (s.inputCount sym * probScale / s.len .inp)

/-- The sum of a quantity over the 256 symbols. -/
def sumSymbols (f : Byte → Nat) : Nat := ((List.range 256).map fun i => f (BitVec.ofNat 8 i)).sum

/-- The frequency of a symbol in a model region that starts at `SPACE:o` (30_encoding R95). -/
def State.regionFreq (s : State) (sp : Space) (o : Nat) (sym : Byte) : Nat :=
  (s.byte sp (o + 2 * sym.toNat)).toNat + 256 * (s.byte sp (o + 2 * sym.toNat + 1)).toNat

/-- The 32-bit little-endian number at `SPACE:a`. -/
def State.number32 (s : State) (sp : Space) (a : Nat) : Nat :=
  (s.byte sp a).toNat + 2 ^ 8 * (s.byte sp (a + 1)).toNat + 2 ^ 16 * (s.byte sp (a + 2)).toNat +
    2 ^ 24 * (s.byte sp (a + 3)).toNat

/-- The code `CT.UNPACK` ends with (44_container R214, in the order of its checks; 0 for `ok`). -/
def unpackCode (s : State) : BitVec 4 :=
  if s.len .art < 24 then 8#4
  else if s.number32 .art 0 ≠ 0x4D49444F then 2#4
  else if s.number32 .art 20 ≠ 512 ∨ s.number32 .art 8 < 4 then 9#4
  else if s.len .art < 24 + s.number32 .art 8 + s.number32 .art 12 + s.number32 .art 16 + s.number32 .art 20 then 8#4
  else if capacity s.cfg .rans < s.number32 .art 8 ∨ capacity s.cfg .flags < s.number32 .art 12 ∨
    capacity s.cfg .mtch < s.number32 .art 16 then 13#4
  else 0#4

end Sys2Proof.Machine
end

