-- ==== Sys2Proof/Certificates/Slice0/Obligations.lean ====
section
/-! DEFINITION. The statements for the provers. Each docstring names the rules of the spec it formalises. -/

open Sys2Proof Sys2Proof.Machine

/-! ### Encodings -/

/-- Words written out from the tables of 30_encoding R91, R92, R100 decode to the instruction they stand for. -/
def Obligations.FewWordsDecode : Prop :=
  decode (.cmd 0x00#8) = .ok .reset ∧ decode (.cmd 0x12#8) = .ok .bwWbits ∧ decode (.cmd 0x22#8) = .ok .brRbits ∧
    decode (.cmd 0x30#8) = .ok .ssCount ∧ decode (.cmd 0x41#8) = .ok .rePut ∧ decode (.cmd 0x51#8) = .ok .rdGet ∧
    decode (.cmd 0x61#8) = .ok .lzStep ∧ decode (.cmd 0x71#8) = .ok .ctUnpack ∧ decode (.cmd 0x82#8) = .ok .decRun ∧
    decode (.token false []) = .ok .lit ∧ decode (.token true [0x03#8, 0x00#8, 0x03#8]) = .ok (.matchTok 3#16 3#8) ∧
    decode (.token true [0x2C#8, 0x01#8, 0xFF#8]) = .ok (.matchTok 300#16 255#8) ∧
    decode (.cmd 0x7F#8) = .error (.reservedCommand 0x7F#8)

/-- A byte decodes to a command exactly when it is that command's code, so no two commands share a code and every other byte is
reserved (R100, R104). -/
def Obligations.CommandCodesExact : Prop :=
  ∀ (code : Byte) (i : Instr), decodeCmd code = .ok i ↔ encode i = .cmd code

/-- Decoding an encoded instruction gives it back, with every operand at every value (R90, R92, R100). -/
def Obligations.DecodeEncode : Prop := ∀ i : Instr, WellFormed i → decode (encode i) = .ok i

/-- Any token listing is read back from its flag region and match region (R91, R92, R97, R106; 95 section 4). -/
def Obligations.TokenListingReadsBack : Prop :=
  ∀ tokens : List Token,
    disassemble (assemble tokens).1 tokens.length 0 (assemble tokens).2 = .ok tokens

/-! ### Steps, the host, status and errors -/

/-- The step that finds a write to `CMD` clears `STATUS.DONE` and then is the decoded instruction's `exec` (10_state R24,
30_encoding R101); with nothing pending the block stays as it is (70_reset R302). The list of pending accesses and the narrowing of
the write to 8 bits are the model's choice (logs 8, 17). -/
def Obligations.StepRunsTheCommand : Prop :=
  (∀ (s : State) (v : Word) (rest : List HostAction) (i : Instr), s.pending = .writeReg 0x00 v :: rest →
    decode (.cmd (v.setWidth 8)) = .ok i → WellFormed i →
    step s = exec i { s with pending := rest, cmd := v.setWidth 8, status := mkStatus s.err false }) ∧
  (∀ s : State, s.pending = [] → step s = .next s)

/-- A reserved `CMD` value is refused and changes no other state (30_encoding R104). That the low 8 bits of the host's write go to
`CMD` and that `CMD` keeps them is the model's choice (logs 7, 17). -/
def Obligations.ReservedCommandRefused : Prop :=
  ∀ (s : State) (v : Word) (rest : List HostAction), s.pending = .writeReg 0x00 v :: rest →
    (∀ i, encode i ≠ .cmd (v.setWidth 8)) →
    step s = .next { s with
      pending := rest, cmd := v.setWidth 8, status := mkStatus (if s.err = 0#4 then 12#4 else s.err) true }

/-- Host accesses (10_state R22, R32; 60_exceptions R282): the nine RW registers take the value written, a write to a read-only
register changes nothing, and a byte written below the capacity of a buffer other than `OUT` stands there. -/
def Obligations.HostAccesses : Prop :=
  (∀ (s : State) (num : Nat) (v : Word) (rest : List HostAction), s.pending = .writeReg num v :: rest →
    (num = 0x01 → step s = .next { s with pending := rest, arg0 := v }) ∧
    (num = 0x02 → step s = .next { s with pending := rest, arg1 := v }) ∧
    (num = 0x05 → step s = .next { s with pending := rest, inp := { s.inp with len := v } }) ∧
    (num = 0x06 → step s = .next { s with pending := rest, art := { s.art with len := v } }) ∧
    (num = 0x12 → step s = .next { s with pending := rest, flags := { s.flags with len := v } }) ∧
    (num = 0x19 → step s = .next { s with pending := rest, rans := { s.rans with len := v } }) ∧
    (num = 0x1D → step s = .next { s with pending := rest, lit := { s.lit with len := v } }) ∧
    (num = 0x1E → step s = .next { s with pending := rest, mtch := { s.mtch with len := v } }) ∧
    (num = 0x20 → step s = .next { s with pending := rest, model := { s.model with len := v } }) ∧
    (num ∉ [0x01, 0x02, 0x05, 0x06, 0x12, 0x19, 0x1D, 0x1E, 0x20] → (hostRead num s).isSome = true →
      step s = .next { s with pending := rest })) ∧
  (∀ (s : State) (sp : Space) (addr : Word) (b : Byte) (rest : List HostAction),
    s.pending = .writeByte sp addr b :: rest → sp ≠ .out → addr.toNat < capacity s.cfg sp →
    ∃ t, step s = .next t ∧ t.byte sp addr.toNat = b ∧ Unchanged [.pending] s t ∧ t.pending = rest ∧
      BytesKeptOutside sp addr.toNat (addr.toNat + 1) s t)

/-- Host reads (10_state R22, R26; 20_memory R64): each readable register number answers its register, narrower ones with zeros
above; `CMD`, which is write only, and a number that no table lists answer nothing; and a RW register written is read back. A byte
of `ART` or `OUT` below the length register is read as it stands (00_scope R10; 10_state R32), one of `ART` as the host last wrote it,
and beyond the length, beyond the capacity and in the other buffers a read answers nothing (the bytes there hold no value: 10_state
R32). That a read is a function of the state and no step, and that nothing answers a read of the other buffers, is the model's
inference (log 20). -/
def Obligations.HostReads : Prop :=
  (∀ s : State,
    hostRead 0x01 s = some s.arg0 ∧ hostRead 0x02 s = some s.arg1 ∧ hostRead 0x03 s = some s.result ∧
    hostRead 0x04 s = some (s.status.setWidth 32) ∧ hostRead 0x05 s = some (s.buf .inp).len ∧
    hostRead 0x06 s = some (s.buf .art).len ∧ hostRead 0x07 s = some (s.buf .out).len ∧
    hostRead 0x08 s = some s.hdr.magic ∧ hostRead 0x09 s = some s.hdr.origSize ∧ hostRead 0x0A s = some s.hdr.ransSize ∧
    hostRead 0x0B s = some s.hdr.flagsSize ∧ hostRead 0x0C s = some s.hdr.matchSize ∧
    hostRead 0x0D s = some s.hdr.modelSize ∧ hostRead 0x0E s = some (s.valid.setWidth 32) ∧
    hostRead 0x10 s = some (s.bwCur.setWidth 32) ∧ hostRead 0x11 s = some (s.bwCnt.setWidth 32) ∧
    hostRead 0x12 s = some (s.buf .flags).len ∧ hostRead 0x13 s = some s.brPos ∧ hostRead 0x18 s = some s.reState ∧
    hostRead 0x19 s = some (s.buf .rans).len ∧ hostRead 0x1A s = some s.rdState ∧ hostRead 0x1B s = some s.rdPtr ∧
    hostRead 0x1C s = some s.lzP ∧ hostRead 0x1D s = some (s.buf .lit).len ∧ hostRead 0x1E s = some (s.buf .mtch).len ∧
    hostRead 0x1F s = some s.decMpos ∧ hostRead 0x20 s = some (s.buf .model).len) ∧
  (∀ s : State,
    (∀ (i : Nat) (h : i < 256), hostRead (0x100 + i) s = some s.raw[i] ∧
      hostRead (0x200 + i) s = some (s.freqs[i].setWidth 32)) ∧
    ∀ (i : Nat) (h : i < 257), hostRead (0x300 + i) s = some (s.cum[i].setWidth 32)) ∧
  (∀ (s : State) (num : Nat), num = 0x00 ∨ num = 0x0F ∨ (0x14 ≤ num ∧ num ≤ 0x17) ∨ (0x21 ≤ num ∧ num ≤ 0xFF) ∨ 0x401 ≤ num →
    hostRead num s = none) ∧
  (∀ (s : State) (num : Nat) (v : Word) (rest : List HostAction), s.pending = .writeReg num v :: rest →
    num ∈ [0x01, 0x02, 0x05, 0x06, 0x12, 0x19, 0x1D, 0x1E, 0x20] → ∃ t, step s = .next t ∧ hostRead num t = some v) ∧
  (∀ (s : State) (sp : Space) (addr : Nat),
    (sp ∈ [Space.art, .out] → addr < s.len sp → addr < capacity s.cfg sp → hostReadByte sp addr s = some (s.byte sp addr)) ∧
    (sp ∉ [Space.art, .out] ∨ s.len sp ≤ addr ∨ capacity s.cfg sp ≤ addr → hostReadByte sp addr s = none)) ∧
  (∀ (s : State) (addr : Word) (b : Byte) (rest : List HostAction), s.pending = .writeByte .art addr b :: rest →
    addr.toNat < s.len .art → addr.toNat < capacity s.cfg .art →
    ∃ t, step s = .next t ∧ hostReadByte .art addr.toNat t = some b)

/-- The parameters are constants of the block: no step changes them (10_state R20, 00_scope R5). -/
def Obligations.ParametersConstant : Prop := ∀ s t : State, step s = .next t → t.cfg = s.cfg

/-- Every command ends in a state, and `DONE` reads 1 after every command but `RESET` (00_scope R11, 10_state R24). A token counts as
the command that runs it (log 10). -/
def Obligations.EveryCommandEnds : Prop :=
  ∀ (i : Instr) (s : State), ∃ t, exec i s = .next t ∧ t.done = decide (i ≠ .reset)

/-- After a fault or a refusal every command but `RESET` only sets `DONE`; `RESET` clears the error and the length registers
(70_reset R318). -/
def Obligations.ErrorsAreSticky : Prop :=
  ∀ s : State, s.err ≠ 0#4 →
    (∀ i, i ≠ .reset → exec i s = .next { s with status := mkStatus s.err true }) ∧
    ∃ t, exec .reset s = .next t ∧ t.err = 0#4 ∧ ∀ sp, t.len sp = 0

/-- The reserved error codes and `IOOpen` are never written (60_exceptions R261, R266). -/
def Obligations.OnlyListedErrorCodes : Prop :=
  ∀ s t : State, step s = .next t → s.err ∈ [0#4, 2#4, 3#4, 4#4, 5#4, 8#4, 9#4, 10#4, 11#4, 12#4, 13#4] →
    t.err ∈ [0#4, 2#4, 3#4, 4#4, 5#4, 8#4, 9#4, 10#4, 11#4, 12#4, 13#4]

/-- A command that ends refused has changed `STATUS` and nothing else (00_scope R11, 60_exceptions R270); that this holds also for
a refusal in the middle of a command is the model's inference (log 12). -/
def Obligations.RefusalChangesOnlyStatus : Prop :=
  ∀ (i : Instr) (s t : State), s.err = 0#4 → exec i s = .next t → t.err = 12#4 → t = { s with status := mkStatus 12#4 true }

/-- `RESET` completes in every state and leaves the values of 10_state R36, which power-on leaves too; what R36 does not name
(`CMD`, log 7; the model's parameters, log 1; the host's pending accesses, log 8) it keeps, by the model's choice. -/
def Obligations.ResetLeavesResetValues : Prop :=
  ResetValues State.reset ∧ ∀ s : State, ∃ t, exec .reset s = .next t ∧ ResetValues t ∧ Unchanged (writesOf .reset) s t

/-! ### BitWriter and BitReader -/

/-- The commands with one effect in every state: `BW.INIT` (40_bitio R122), `BW.BYTES` (R126), `BR.INIT` (R127), `RE.INIT`
(42_rans R161), `LZ.INIT` (43_lz77 R191). `BR.INIT` needs a `FLAGS_LEN` within the capacity (60_exceptions R268; that it is one of the
commands that check it is the model's inference, log 14), and `bwFlushed` is the model's own field (log 3). -/
def Obligations.PlainCommands : Prop :=
  ∀ s : State, s.err = 0#4 →
    exec .bwInit s = .next { s with
      bwCur := 0#8, bwCnt := 0#3, bwFlushed := false, flags := { s.flags with len := 0#32 }, status := mkStatus 0#4 true } ∧
    exec .bwBytes s = .next { s with result := s.flags.len, status := mkStatus 0#4 true } ∧
    (s.len .flags ≤ capacity s.cfg .flags →
      exec .brInit s = .next { s with brPos := 0#32, valid := s.valid ||| 0x08#8, status := mkStatus 0#4 true }) ∧
    (capacity s.cfg .flags < s.len .flags → exec .brInit s = .next { s with status := mkStatus 13#4 true }) ∧
    exec .reInit s = .next { s with
      reState := BitVec.ofNat 32 s.cfg.ransL, rans := { s.rans with len := 0#32 }, valid := s.valid ||| 0x02#8,
      status := mkStatus 0#4 true } ∧
    exec .lzInit s = .next { s with
      lzP := 0#32, lit := { s.lit with len := 0#32 }, mtch := { s.mtch with len := 0#32 }, valid := s.valid ||| 0x10#8,
      status := mkStatus 0#4 true }

/-- `BW.WBIT` (40_bitio R123): bit `7 - BW.cnt` of `BW.cur` takes `ARG0[0]`; the 8th bit appends the byte and a fresh zero byte
begins; where the append would pass the capacity the command is refused, as it is after a flush where the parameter
`BW_WRITE_AFTER_FLUSH` says so (93 U1; log 3). That the refusal comes at the append is the model's inference (log 13). -/
def Obligations.BwWbitResult : Prop :=
  ∀ s : State, s.err = 0#4 →
    let cur := s.bwCur ||| BitVec.ofNat 8 ((s.arg0.toNat % 2) * 2 ^ (7 - s.bwCnt.toNat))
    (bwOpen s.cfg s = true → s.bwCnt ≠ 7#3 →
      exec .bwWbit s = .next { s with bwCur := cur, bwCnt := s.bwCnt + 1#3, status := mkStatus 0#4 true }) ∧
    (bwOpen s.cfg s = true → s.bwCnt = 7#3 → s.cfg.Bounded → s.len .flags < capacity s.cfg .flags →
      ∃ t, exec .bwWbit s = .next t ∧ t.status = mkStatus 0#4 true ∧ t.bwCur = 0#8 ∧ t.bwCnt = 0#3 ∧
        t.len .flags = s.len .flags + 1 ∧ t.byte .flags (s.len .flags) = cur ∧
        Unchanged [.status, .bwCur, .bwCnt, .len .flags] s t ∧
        BytesKeptOutside .flags (s.len .flags) (s.len .flags + 1) s t) ∧
    (s.bwCnt = 7#3 → capacity s.cfg .flags ≤ s.len .flags →
      exec .bwWbit s = .next { s with status := mkStatus 12#4 true }) ∧
    (bwOpen s.cfg s = false → exec .bwWbit s = .next { s with status := mkStatus 12#4 true })

/-- `BW.WBITS` (40_bitio R125): the low `n` bits of `v` go behind the bits already held, bit `n-1` first; `n` above 32 is refused,
and so is a write after a flush where the parameter `BW_WRITE_AFTER_FLUSH` says so (93 U1; log 3) and a write whose completed bytes
do not all fit (20_memory R70; log 13), with nothing changed. -/
def Obligations.BwWbitsResult : Prop :=
  ∀ s : State, s.err = 0#4 →
    let bytes := (s.bwCnt.toNat + s.arg1.toNat) / 8
    (s.WriterInv → bwOpen s.cfg s = true → s.cfg.Bounded → s.arg1.toNat ≤ 32 →
      (bytes = 0 ∨ s.len .flags + bytes ≤ capacity s.cfg .flags) →
      ∃ t, exec .bwWbits s = .next t ∧ t.status = mkStatus 0#4 true ∧
        t.writerBits = s.writerBits ++ (List.range s.arg1.toNat).map (fun k => s.arg0.getLsbD (s.arg1.toNat - 1 - k)) ∧
        t.len .flags = s.len .flags + bytes ∧
        Unchanged [.status, .bwCur, .bwCnt, .len .flags] s t ∧
        BytesKeptOutside .flags (s.len .flags) (t.len .flags) s t) ∧
    (s.cfg.Bounded → s.arg1.toNat ≤ 32 → 1 ≤ bytes → capacity s.cfg .flags < s.len .flags + bytes →
      exec .bwWbits s = .next { s with status := mkStatus 12#4 true }) ∧
    (bwOpen s.cfg s = false ∨ 32 < s.arg1.toNat → exec .bwWbits s = .next { s with status := mkStatus 12#4 true })

/-- `BW.FLUSH` (40_bitio R124): the partial byte, if there is one, is appended with its low bits 0; where
the append would pass the capacity it is refused (20_memory R70, the model's inference, log 13). On an
empty writer R124 does nothing; the model's own bit `bwFlushed` takes note of the flush also then, by the model's choice (log 3). -/
def Obligations.BwFlushResult : Prop :=
  ∀ s : State, s.err = 0#4 →
    (s.bwCnt = 0#3 → exec .bwFlush s = .next { s with bwFlushed := true, status := mkStatus 0#4 true }) ∧
    (s.bwCnt ≠ 0#3 → s.cfg.Bounded → s.len .flags < capacity s.cfg .flags →
      ∃ t, exec .bwFlush s = .next t ∧ t.status = mkStatus 0#4 true ∧ t.bwCur = 0#8 ∧ t.bwCnt = 0#3 ∧
        t.len .flags = s.len .flags + 1 ∧ t.byte .flags (s.len .flags) = s.bwCur ∧
        Unchanged [.status, .bwCur, .bwCnt, .len .flags, .bwFlushed] s t ∧
        BytesKeptOutside .flags (s.len .flags) (s.len .flags + 1) s t) ∧
    (s.bwCnt ≠ 0#3 → capacity s.cfg .flags ≤ s.len .flags →
      exec .bwFlush s = .next { s with status := mkStatus 12#4 true })

/-- `BR.RBIT` (40_bitio R128): the next bit of `FLAGS`, most significant first, and 0 with `BR.pos` held past the end; refused
before `BR.INIT`. -/
def Obligations.BrRbitResult : Prop :=
  ∀ s : State, s.err = 0#4 →
    (s.isValid .br = true → s.len .flags ≤ capacity s.cfg .flags → s.brPos.toNat < 8 * s.len .flags →
      exec .brRbit s = .next { s with
        result := BitVec.ofNat 32 (((s.byte .flags (s.brPos.toNat / 8)).toNat >>> (7 - s.brPos.toNat % 8)) % 2)
        brPos := s.brPos + 1#32
        status := mkStatus 0#4 true }) ∧
    (s.isValid .br = true → s.len .flags ≤ capacity s.cfg .flags → 8 * s.len .flags ≤ s.brPos.toNat →
      exec .brRbit s = .next { s with result := 0#32, status := mkStatus 0#4 true }) ∧
    (s.isValid .br = false → exec .brRbit s = .next { s with status := mkStatus 12#4 true })

/-- `BR.RBITS` (40_bitio R129): bit `k` of the result is the flag bit `n-1-k` places after `BR.pos`, 0 past the end and above
`n`; the position stops at the end. -/
def Obligations.BrRbitsResult : Prop :=
  ∀ s : State, s.err = 0#4 →
    (s.isValid .br = true → s.cfg.Bounded → s.len .flags ≤ capacity s.cfg .flags → s.arg0.toNat ≤ 32 →
      ∃ t, exec .brRbits s = .next t ∧ t.status = mkStatus 0#4 true ∧
        (∀ k, k < 32 → t.result.getLsbD k =
          (decide (k < s.arg0.toNat) && s.flagsBit (s.brPos.toNat + (s.arg0.toNat - 1 - k)))) ∧
        t.brPos.toNat = max s.brPos.toNat (min (s.brPos.toNat + s.arg0.toNat) (8 * s.len .flags)) ∧
        Unchanged [.status, .result, .brPos] s t ∧ AllBytesKept s t) ∧
    (s.isValid .br = false ∨ 32 < s.arg0.toNat → exec .brRbits s = .next { s with status := mkStatus 12#4 true })

/-- The bit order property (40_bitio R130): bits written after `BW.INIT` and flushed stand in `FLAGS` most significant first with
zero padding, and reading as many bits after `BR.INIT` gives them back. -/
def Obligations.BitOrderRoundTrip : Prop :=
  ∀ (c : Config) (s : State) (bits : List Bool), c.Bounded → ceilDiv8 bits.length ≤ capacity c .flags →
    ∃ t u v w, writeAll c bits (bwInit s) = .ok () t ∧ bwFlush c t = .ok () u ∧
      u.len .flags = ceilDiv8 bits.length ∧
      (∀ j, u.flagsBit j = bits.getD j false) ∧
      brInit c u = .ok () v ∧ readAll c bits.length v = .ok bits w

/-! ### SymbolStats -/

/-- `SS.COUNT` (41_symbolstats R141, R142, R146): the tally of the input, the cumulative table as the prefix sum of the
frequencies, and the empty model for an empty input; a length above `N_MAX` raises `SizeOverflow` (60_exceptions R268). -/
def Obligations.SsCountResult : Prop :=
  ∀ s : State, s.err = 0#4 →
    (s.len .inp ≤ s.cfg.nMax →
      ∃ t, exec .ssCount s = .next t ∧ t.status = mkStatus 0#4 true ∧ t.valid = s.valid ||| 0x01#8 ∧
        (∀ sym : Byte, (t.raw[sym.toNat]?.getD 0#32).toNat = s.inputCount sym) ∧
        t.cumAt 0 = 0 ∧ (∀ sym : Byte, t.cumAt (sym.toNat + 1) = t.cumAt sym.toNat + t.freq sym) ∧
        (s.len .inp = 0 → t.ModelEmpty) ∧
        Unchanged [.status, .valid, .raw, .freqs, .cum] s t ∧ AllBytesKept s t) ∧
    (s.cfg.nMax < s.len .inp → exec .ssCount s = .next { s with status := mkStatus 13#4 true })

/-- The model sum property (41_symbolstats R147): for a non-empty input the frequencies sum to 4096 and every symbol seen has a
frequency of at least 1. -/
def Obligations.ModelSum : Prop :=
  ∀ s : State, s.err = 0#4 → 1 ≤ s.len .inp → s.len .inp ≤ s.cfg.nMax →
    ∃ t, exec .ssCount s = .next t ∧ sumSymbols t.freq = 4096 ∧
      ∀ sym : Byte, 1 ≤ s.inputCount sym → 1 ≤ t.freq sym

/-- Scaling and adjustment (41_symbolstats R143, R144, R145): a deficit goes to index 0 and touches nothing else; an excess is
taken by a cyclic walk from index 0 that has made `k` full passes and visited the indices below `j` once more. -/
def Obligations.DeficitAndExcess : Prop :=
  ∀ s : State, s.err = 0#4 → 1 ≤ s.len .inp → s.len .inp ≤ s.cfg.nMax →
    ∃ t, exec .ssCount s = .next t ∧
      (sumSymbols s.scaled ≤ 4096 →
        ∀ sym : Byte, t.freq sym = if sym = 0#8 then s.scaled 0#8 + (4096 - sumSymbols s.scaled) else s.scaled sym) ∧
      (4096 < sumSymbols s.scaled →
        ∃ k j, j < 256 ∧ (∀ sym : Byte, t.freq sym =
            if s.scaled sym ≤ 1 then s.scaled sym
            else max 1 (s.scaled sym - (k + if sym.toNat < j then 1 else 0))) ∧
          sumSymbols t.freq = 4096)

/-- `SS.STORE` (41_symbolstats R148): frequency `s` at `MODEL:2s` (low) and `MODEL:2s+1` (high); refused without a model. -/
def Obligations.SsStoreResult : Prop :=
  ∀ s : State, s.err = 0#4 →
    (s.isValid .ss = true →
      ∃ t, exec .ssStore s = .next t ∧ t.status = mkStatus 0#4 true ∧ t.len .model = 512 ∧
        (∀ sym : Byte, (t.byte .model (2 * sym.toNat)).toNat = s.freq sym % 256 ∧
          (t.byte .model (2 * sym.toNat + 1)).toNat = s.freq sym / 256) ∧
        Unchanged [.status, .len .model] s t ∧ BytesKeptOutside .model 0 512 s t) ∧
    (s.isValid .ss = false → exec .ssStore s = .next { s with status := mkStatus 12#4 true })

/-- `SS.LOAD` (41_symbolstats R150): the table verbatim and its prefix sums, `BadModel` unless it sums to 4096, refused unless
`MODEL_LEN` is 512. -/
def Obligations.SsLoadResult : Prop :=
  ∀ s : State, s.err = 0#4 →
    (s.len .model = 512 → sumSymbols (s.regionFreq .model 0) = 4096 →
      ∃ t, exec .ssLoad s = .next t ∧ t.status = mkStatus 0#4 true ∧ t.valid = s.valid ||| 0x01#8 ∧ t.ModelOk ∧
        (∀ sym : Byte, t.freq sym = s.regionFreq .model 0 sym) ∧
        Unchanged [.status, .valid, .freqs, .cum] s t ∧ AllBytesKept s t) ∧
    (s.len .model = 512 → sumSymbols (s.regionFreq .model 0) ≠ 4096 →
      exec .ssLoad s = .next { s with status := mkStatus 10#4 true }) ∧
    (s.len .model ≠ 512 → exec .ssLoad s = .next { s with status := mkStatus 12#4 true })

/-! ### rANS -/

/-- `RE.PUT` (42_rans R162, R163, R164): the `k` bytes shifted out while the state is at or above `f * 2^ENC_BOUND_SHIFT`, low byte
first, then the update, which is narrowed to 32 bits where it would not fit (log 18) and exact where 42_rans R180 says it fits;
refused, with nothing changed, where the bytes do not fit in `RANS` (20_memory R70; log 13); `ZeroFreq` before anything is touched
when the symbol has frequency 0; refused when the encoder is not open or there is no model. -/
def Obligations.RePutResult : Prop :=
  ∀ s : State, s.err = 0#4 →
    let sym : Byte := BitVec.ofNat 8 s.arg0.toNat
    let f := s.freq sym
    let x := s.reState.toNat
    let bound := f * 2 ^ s.cfg.encBoundShift
    (s.isValid .re = true → s.isValid .ss = true → 1 ≤ f →
      ∃ k, k ≤ 4 ∧ (∀ j, j < k → bound ≤ x / 256 ^ j) ∧ x / 256 ^ k < bound ∧
        (k = 0 ∨ (s.cfg.Bounded ∧ s.len .rans + k ≤ capacity s.cfg .rans) →
          ∃ t, exec .rePut s = .next t ∧ t.status = mkStatus 0#4 true ∧
            t.len .rans = s.len .rans + k ∧
            (∀ j, j < k → (t.byte .rans (s.len .rans + j)).toNat = x / 256 ^ j % 256) ∧
            t.reState = BitVec.ofNat 32 (x / 256 ^ k / f * 4096 + x / 256 ^ k % f + s.cumAt sym.toNat) ∧
            (s.ModelOk → s.cfg.encBoundShift + 12 ≤ 32 →
              t.reState.toNat = x / 256 ^ k / f * 4096 + x / 256 ^ k % f + s.cumAt sym.toNat) ∧
            Unchanged [.status, .reState, .len .rans] s t ∧
            BytesKeptOutside .rans (s.len .rans) (s.len .rans + k) s t) ∧
        (s.cfg.Bounded → 1 ≤ k → capacity s.cfg .rans < s.len .rans + k →
          exec .rePut s = .next { s with status := mkStatus 12#4 true })) ∧
    (s.isValid .re = true → s.isValid .ss = true → f = 0 → exec .rePut s = .next { s with status := mkStatus 11#4 true }) ∧
    (s.isValid .re = false ∨ s.isValid .ss = false → exec .rePut s = .next { s with status := mkStatus 12#4 true })

/-- `RE.FLUSH` (42_rans R168): the four bytes of the state, low byte first; the encoder is closed and its state kept; refused when
it is not open, and where the appends would pass the capacity (20_memory R70, the model's inference, log 13). -/
def Obligations.ReFlushResult : Prop :=
  ∀ s : State, s.err = 0#4 →
    (s.isValid .re = true → s.cfg.Bounded → s.len .rans + 4 ≤ capacity s.cfg .rans →
      ∃ t, exec .reFlush s = .next t ∧ t.status = mkStatus 0#4 true ∧ t.valid = s.valid &&& 0xFD#8 ∧
        t.len .rans = s.len .rans + 4 ∧ t.number32 .rans (s.len .rans) = s.reState.toNat ∧
        Unchanged [.status, .valid, .len .rans] s t ∧
        BytesKeptOutside .rans (s.len .rans) (s.len .rans + 4) s t) ∧
    (s.isValid .re = false → exec .reFlush s = .next { s with status := mkStatus 12#4 true }) ∧
    (s.cfg.Bounded → capacity s.cfg .rans < s.len .rans + 4 →
      exec .reFlush s = .next { s with status := mkStatus 12#4 true })

/-- `RD.INIT` (42_rans R170): the last four bytes of `RANS` are the state, the byte at `len-4` the low byte; the pointer starts at
`len-4`; refused below four bytes. -/
def Obligations.RdInitResult : Prop :=
  ∀ s : State, s.err = 0#4 →
    (4 ≤ s.len .rans → s.len .rans ≤ capacity s.cfg .rans →
      exec .rdInit s = .next { s with
        rdState := BitVec.ofNat 32 (s.number32 .rans (s.len .rans - 4))
        rdPtr := BitVec.ofNat 32 (s.len .rans - 4)
        valid := s.valid ||| 0x04#8
        status := mkStatus 0#4 true }) ∧
    (s.len .rans < 4 → exec .rdInit s = .next { s with status := mkStatus 12#4 true })

/-- `RD.GET` (42_rans R171, R172, R177): the symbol of the slot, the update, and the refill from the pointer downward, which ends
with the state at `RANS_L` or above or the pointer at 0; refused when the decoder or the model is not ready. -/
def Obligations.RdGetResult : Prop :=
  ∀ s : State, s.err = 0#4 →
    (s.isValid .rd = true → s.isValid .ss = true → s.ModelOk → s.len .rans ≤ capacity s.cfg .rans →
      ∃ (t : State) (sym : Byte) (k : Nat) (x : Nat → Word), exec .rdGet s = .next t ∧ t.status = mkStatus 0#4 true ∧
        s.cumAt sym.toNat ≤ s.rdState.toNat % 4096 ∧ s.rdState.toNat % 4096 < s.cumAt (sym.toNat + 1) ∧
        t.result = BitVec.ofNat 32 sym.toNat ∧
        (x 0).toNat = s.rdState.toNat / 4096 * s.freq sym + s.rdState.toNat % 4096 - s.cumAt sym.toNat ∧
        k ≤ s.rdPtr.toNat ∧
        (∀ j, j < k → (x j).toNat < s.cfg.ransL ∧
          x (j + 1) = (x j <<< 8) ||| (s.byte .rans (s.rdPtr.toNat - 1 - j)).setWidth 32) ∧
        (s.cfg.ransL ≤ (x k).toNat ∨ k = s.rdPtr.toNat) ∧
        t.rdState = x k ∧ t.rdPtr.toNat = s.rdPtr.toNat - k ∧
        Unchanged [.status, .result, .rdState, .rdPtr] s t ∧ AllBytesKept s t) ∧
    (s.isValid .rd = false ∨ s.isValid .ss = false ∨ s.cumAt 256 ≠ 4096 →
      exec .rdGet s = .next { s with status := mkStatus 12#4 true })

/-- Reversal of the coder when no byte was emitted (42_rans R178, case 1): the symbols come back last first, and the decoder ends
at the encoder's initial state. The parameters are those for which 42_rans R180 says the registers hold every value. -/
def Obligations.ReversalWithoutRenormalisation : Prop :=
  ∀ (c : Config) (s t : State) (syms : List Byte), c.Bounded → c.ransL ≤ 2 ^ 24 → c.encBoundShift + 12 ≤ 32 →
    s.isValid .ss = true → s.ModelOk → (∀ sym ∈ syms, 1 ≤ s.freq sym) →
    putAll c syms (reInit c s) = .ok () t → t.len .rans = 0 →
    ∃ u v w, reFlush c t = .ok () u ∧ rdInit c u = .ok () v ∧ getAll c syms.length v = .ok syms.reverse w ∧
      w.rdState = BitVec.ofNat 32 c.ransL ∧ w.rdPtr = 0#32

/-- Reversal of the coder for consistent constants (42_rans R178, case 2, which the spec takes from general knowledge), for a
`RANS_L` that is a multiple of `PROB_SCALE`, as both consistent pairs of 00_scope R6 are. -/
def Obligations.ReversalUnderRenormConsistent : Prop :=
  ∀ (c : Config) (s : State) (syms : List Byte), c.Bounded → c.RenormConsistent → c.ransL % 4096 = 0 →
    s.isValid .ss = true → s.ModelOk → (∀ sym ∈ syms, 1 ≤ s.freq sym) → syms.length ≤ c.nMax →
    ∃ t u v w, putAll c syms (reInit c s) = .ok () t ∧ reFlush c t = .ok () u ∧ rdInit c u = .ok () v ∧
      getAll c syms.length v = .ok syms.reverse w ∧ w.rdState = BitVec.ofNat 32 c.ransL ∧ w.rdPtr = 0#32

/-! ### LZ77 parser -/

/-- `LZ.STEP` (43_lz77 R192, R194, R195, R196): the longest candidate, the earliest among equals, is emitted as a match when it has
at least three bytes, else the byte at the position as a literal; refused before `LZ.INIT` and at the end of the input, and, with
nothing changed, where the record, the literal or the completed flag byte does not fit (20_memory R70; log 13) or the BitWriter takes
no bit after a flush (93 U1; log 3). -/
def Obligations.LzStepResult : Prop :=
  ∀ s : State, s.err = 0#4 →
    (s.isValid .lz = true → s.lzP.toNat < s.len .inp → s.len .inp ≤ s.cfg.nMax → s.cfg.Bounded → bwOpen s.cfg s = true →
      s.WriterInv → (s.bwCnt ≠ 7#3 ∨ s.len .flags < capacity s.cfg .flags) →
      (∀ i l, s.Candidate i l → 3 ≤ l → (∀ i' l', s.Candidate i' l' → l' ≤ l) →
        (∀ i' l', i' < i → s.Candidate i' l' → l' < l) → s.len .mtch + 3 ≤ capacity s.cfg .mtch →
        ∃ t, exec .lzStep s = .next t ∧ t.status = mkStatus 0#4 true ∧ t.lzP.toNat = s.lzP.toNat + l ∧
          t.len .mtch = s.len .mtch + 3 ∧ t.len .lit = s.len .lit ∧
          (t.byte .mtch (s.len .mtch)).toNat + 256 * (t.byte .mtch (s.len .mtch + 1)).toNat = s.lzP.toNat - i ∧
          (t.byte .mtch (s.len .mtch + 2)).toNat = l ∧ t.writerBits = s.writerBits ++ [true] ∧
          Unchanged [.status, .lzP, .len .mtch, .bwCur, .bwCnt, .len .flags] s t) ∧
      ((∀ i l, s.Candidate i l → l < 3) → s.len .lit < capacity s.cfg .lit →
        ∃ t, exec .lzStep s = .next t ∧ t.status = mkStatus 0#4 true ∧ t.lzP.toNat = s.lzP.toNat + 1 ∧
          t.len .lit = s.len .lit + 1 ∧ t.len .mtch = s.len .mtch ∧
          t.byte .lit (s.len .lit) = s.byte .inp s.lzP.toNat ∧ t.writerBits = s.writerBits ++ [false] ∧
          Unchanged [.status, .lzP, .len .lit, .bwCur, .bwCnt, .len .flags] s t)) ∧
    (s.isValid .lz = true → s.lzP.toNat < s.len .inp → s.len .inp ≤ s.cfg.nMax →
      (bwOpen s.cfg s = false ∨ (s.bwCnt = 7#3 ∧ capacity s.cfg .flags ≤ s.len .flags) →
        exec .lzStep s = .next { s with status := mkStatus 12#4 true }) ∧
      (∀ i l, s.Candidate i l → 3 ≤ l → s.cfg.Bounded → capacity s.cfg .mtch < s.len .mtch + 3 →
        exec .lzStep s = .next { s with status := mkStatus 12#4 true }) ∧
      ((∀ i l, s.Candidate i l → l < 3) → capacity s.cfg .lit ≤ s.len .lit →
        exec .lzStep s = .next { s with status := mkStatus 12#4 true })) ∧
    (s.isValid .lz = false ∨ s.len .inp ≤ s.lzP.toNat → exec .lzStep s = .next { s with status := mkStatus 12#4 true })

/-- `LZ.PARSE` (43_lz77 R197, R193): it ends with `LZ.p == IN_LEN`; the literals and the match lengths cover the input, there are
three bytes a match and one flag bit a token; a length above `N_MAX` raises `SizeOverflow`. -/
def Obligations.LzParseResult : Prop :=
  ∀ s : State, s.err = 0#4 →
    (s.len .inp ≤ s.cfg.nMax → s.cfg.Bounded → bwOpen s.cfg s = true →
      s.len .flags + (s.bwCnt.toNat + s.len .inp) / 8 ≤ capacity s.cfg .flags →
      ∃ t m, exec .lzParse s = .next t ∧ t.status = mkStatus 0#4 true ∧ t.lzP = s.inp.len ∧ t.len .mtch = 3 * m ∧
        t.len .lit + ((List.range m).map fun k => (t.byte .mtch (3 * k + 2)).toNat).sum = s.len .inp ∧
        min (s.len .inp) 3 ≤ t.len .lit ∧
        8 * t.len .flags + t.bwCnt.toNat = 8 * s.len .flags + s.bwCnt.toNat + (t.len .lit + m) ∧
        t.valid = s.valid ||| 0x10#8 ∧
        Unchanged [.status, .valid, .lzP, .len .lit, .len .mtch, .bwCur, .bwCnt, .len .flags] s t) ∧
    (s.cfg.nMax < s.len .inp → exec .lzParse s = .next { s with status := mkStatus 13#4 true })

/-- The token stream invariant (43_lz77 R198): replaying the parser's three outputs reproduces the input byte for byte. -/
def Obligations.ParserReproducesInput : Prop :=
  ∀ s : State, s.err = 0#4 → s.len .inp ≤ s.cfg.nMax → s.cfg.Bounded → bwOpen s.cfg s = true →
    s.len .flags = 0 → s.bwCnt = 0#3 → s.bwCur = 0#8 →
    ∃ t, exec .lzParse s = .next t ∧
      replay t.writerBits (t.contents .lit) (t.contents .mtch) [] = some (s.contents .inp)

/-! ### Container -/

/-- `CT.PACK` (44_container R212, R216): the six header fields, the header and the four regions in `ART`, and the artifact's length;
refused while the model is not stored, flag bits are pending or the encoder is open. -/
def Obligations.CtPackResult : Prop :=
  ∀ s : State, s.err = 0#4 →
    (s.len .model = 512 → s.bwCnt = 0#3 → s.isValid .re = false → s.cfg.Bounded →
      s.len .rans ≤ capacity s.cfg .rans → s.len .flags ≤ capacity s.cfg .flags → s.len .mtch ≤ capacity s.cfg .mtch →
      ∃ t, exec .ctPack s = .next t ∧ t.status = mkStatus 0#4 true ∧ t.valid = s.valid ||| 0x20#8 ∧
        t.hdr = { magic := 0x4D49444F#32, origSize := s.inp.len, ransSize := s.rans.len, flagsSize := s.flags.len,
                  matchSize := s.mtch.len, modelSize := 512#32 } ∧
        t.len .art = 24 + s.len .rans + s.len .flags + s.len .mtch + 512 ∧
        t.number32 .art 0 = 0x4D49444F ∧ t.number32 .art 4 = s.len .inp ∧ t.number32 .art 8 = s.len .rans ∧
        t.number32 .art 12 = s.len .flags ∧ t.number32 .art 16 = s.len .mtch ∧ t.number32 .art 20 = 512 ∧
        (∀ k, k < s.len .rans → t.byte .art (24 + k) = s.byte .rans k) ∧
        (∀ k, k < s.len .flags → t.byte .art (24 + s.len .rans + k) = s.byte .flags k) ∧
        (∀ k, k < s.len .mtch → t.byte .art (24 + s.len .rans + s.len .flags + k) = s.byte .mtch k) ∧
        (∀ k, k < 512 → t.byte .art (24 + s.len .rans + s.len .flags + s.len .mtch + k) = s.byte .model k) ∧
        Unchanged [.status, .valid, .hdr, .len .art] s t ∧ BytesKeptOutside .art 0 (t.len .art) s t) ∧
    (s.len .model ≠ 512 ∨ s.bwCnt ≠ 0#3 ∨ s.isValid .re = true →
      exec .ctPack s = .next { s with status := mkStatus 12#4 true })

/-- `CT.UNPACK` (44_container R214; 60_exceptions R262, R267, R274): the checks in their order with the code each raises, `HDR.magic`
as evidence of a wrong magic, nothing stored by a faulting unpack; and on success the header fields and the four regions. -/
def Obligations.CtUnpackResult : Prop :=
  ∀ s : State, s.err = 0#4 → s.len .art ≤ capacity s.cfg .art → s.cfg.Bounded →
    ∃ t, exec .ctUnpack s = .next t ∧ t.status = mkStatus (unpackCode s) true ∧
      (unpackCode s ≠ 0#4 → t.valid = s.valid ∧ AllBytesKept s t ∧ ∀ sp, t.len sp = s.len sp) ∧
      (unpackCode s = 2#4 → t.hdr.magic.toNat = s.number32 .art 0) ∧
      (unpackCode s = 0#4 →
        t.valid = s.valid ||| 0x20#8 ∧ t.hdr.magic = 0x4D49444F#32 ∧ t.hdr.origSize.toNat = s.number32 .art 4 ∧
        t.hdr.ransSize.toNat = s.number32 .art 8 ∧ t.hdr.flagsSize.toNat = s.number32 .art 12 ∧
        t.hdr.matchSize.toNat = s.number32 .art 16 ∧ t.hdr.modelSize = 512#32 ∧
        t.len .rans = s.number32 .art 8 ∧ t.len .flags = s.number32 .art 12 ∧ t.len .mtch = s.number32 .art 16 ∧
        t.len .model = 512 ∧
        (∀ k, k < t.len .rans → t.byte .rans k = s.byte .art (24 + k)) ∧
        (∀ k, k < t.len .flags → t.byte .flags k = s.byte .art (24 + t.len .rans + k)) ∧
        (∀ k, k < t.len .mtch → t.byte .mtch k = s.byte .art (24 + t.len .rans + t.len .flags + k)) ∧
        (∀ k, k < 512 → t.byte .model k = s.byte .art (24 + t.len .rans + t.len .flags + t.len .mtch + k)))

/-- `CT.UNPACK` after `CT.PACK` restores the four regions byte for byte and the six header fields (44_container R217). -/
def Obligations.UnpackRestoresPack : Prop :=
  ∀ s t : State, s.err = 0#4 → s.cfg.Bounded → 4 ≤ s.len .rans → exec .ctPack s = .next t → t.err = 0#4 →
    ∃ u, exec .ctUnpack t = .next u ∧ u.err = 0#4 ∧ u.hdr = t.hdr ∧
      ∀ sp, sp ∈ [Space.rans, .flags, .mtch, .model] →
        u.len sp = s.len sp ∧ ∀ k, k < s.len sp → u.byte sp k = s.byte sp k

/-! ### Decode loop and tokens -/

/-- `DEC.INIT` (45_orchestration R239): an empty output; `SizeOverflow` for an original size above `N_MAX`; refused without a
header. -/
def Obligations.DecInitResult : Prop :=
  ∀ s : State, s.err = 0#4 →
    (s.isValid .hdr = true → s.hdr.origSize.toNat ≤ s.cfg.nMax →
      exec .decInit s = .next { s with
        decMpos := 0#32, out := { s.out with len := 0#32 }, valid := s.valid ||| 0x40#8, status := mkStatus 0#4 true }) ∧
    (s.isValid .hdr = true → s.cfg.nMax < s.hdr.origSize.toNat →
      exec .decInit s = .next { s with status := mkStatus 13#4 true }) ∧
    (s.isValid .hdr = false → exec .decInit s = .next { s with status := mkStatus 12#4 true })

/-- `DEC.STEP` executes the token at the cursor (30_encoding R90, 45_orchestration R240): where the flag bit and the match record
decode to a token, the command is that token's `exec` (log 10: the model's inference). -/
def Obligations.DecStepRunsTheToken : Prop :=
  ∀ (s : State) (tok : Token) (rest : List Byte), s.tokenHere = .ok (tok, rest) → exec .decStep s = exec tok.instr s

/-- `LIT` (45_orchestration R250), and `DEC.STEP` at a flag bit 0 or past the end of `FLAGS`: one byte is appended, the symbol
`RD.GET` returns in the same state, with the same advance of the decoder; `DEC.mpos` is unchanged. That `LIT` runs as `DEC.STEP` runs
it is the model's inference (log 10). -/
def Obligations.LitResult : Prop :=
  ∀ s : State, s.err = 0#4 → s.cfg.Bounded → decReady s = true → s.len .out < s.hdr.origSize.toNat →
    s.len .flags ≤ capacity s.cfg .flags → s.len .mtch ≤ capacity s.cfg .mtch → s.len .rans ≤ capacity s.cfg .rans →
    s.len .out < capacity s.cfg .out → s.flagsBit s.brPos.toNat = false →
    ∃ t u, exec .lit s = .next t ∧ exec .decStep s = .next t ∧ exec .rdGet s = .next u ∧ t.status = mkStatus 0#4 true ∧
      t.brPos.toNat = (if s.brPos.toNat < 8 * s.len .flags then s.brPos.toNat + 1 else s.brPos.toNat) ∧
      t.len .out = s.len .out + 1 ∧ (t.byte .out (s.len .out)).toNat = u.result.toNat ∧
      t.rdState = u.rdState ∧ t.rdPtr = u.rdPtr ∧
      Unchanged [.status, .brPos, .rdState, .rdPtr, .len .out] s t ∧
      BytesKeptOutside .out (s.len .out) (s.len .out + 1) s t

/-- `MATCH dist, len` (45_orchestration R251, 20_memory R82), and `DEC.STEP` at it: `len` bytes are appended, each the byte `dist`
before it, bytes the same copy appended among them; the record is consumed. That `MATCH` runs as `DEC.STEP` runs it is the model's inference
(log 10). -/
def Obligations.MatchResult : Prop :=
  ∀ (s : State) (dist : Half) (len : Byte), s.err = 0#4 → s.cfg.Bounded → decReady s = true →
    s.len .out < s.hdr.origSize.toNat →
    s.len .flags ≤ capacity s.cfg .flags → s.len .mtch ≤ capacity s.cfg .mtch → s.len .rans ≤ capacity s.cfg .rans →
    s.flagsBit s.brPos.toNat = true → s.decMpos.toNat + 3 ≤ s.len .mtch →
    (s.byte .mtch s.decMpos.toNat).toNat + 256 * (s.byte .mtch (s.decMpos.toNat + 1)).toNat = dist.toNat →
    s.byte .mtch (s.decMpos.toNat + 2) = len → 1 ≤ dist.toNat → dist.toNat ≤ s.len .out →
    s.len .out + len.toNat ≤ capacity s.cfg .out →
    ∃ t, exec (.matchTok dist len) s = .next t ∧ exec .decStep s = .next t ∧ t.status = mkStatus 0#4 true ∧
      t.brPos.toNat = s.brPos.toNat + 1 ∧ t.decMpos.toNat = s.decMpos.toNat + 3 ∧
      t.len .out = s.len .out + len.toNat ∧
      (∀ k, k < len.toNat → t.byte .out (s.len .out + k) = t.byte .out (s.len .out + k - dist.toNat)) ∧
      Unchanged [.status, .brPos, .decMpos, .len .out] s t ∧
      BytesKeptOutside .out (s.len .out) (s.len .out + len.toNat) s t

/-- The faults and the refusals of `DEC.STEP` (45_orchestration R240; 60_exceptions R263, R264): `MatchUnderflow` with the flag bit
consumed and `DEC.mpos` unchanged; `InvalidDistance` with the record consumed too; the output unchanged by both. It is refused while a
unit or the model is not ready, and when the output has reached the original size; so are the tokens (log 10). -/
def Obligations.MatchFaults : Prop :=
  ∀ s : State, s.err = 0#4 →
    (s.isValid .dec = false ∨ s.isValid .hdr = false ∨ s.isValid .br = false ∨ s.isValid .rd = false ∨ s.isValid .ss = false ∨
        s.cumAt 256 ≠ 4096 ∨ s.hdr.origSize.toNat ≤ s.len .out →
      exec .decStep s = .next { s with status := mkStatus 12#4 true } ∧
        exec .lit s = .next { s with status := mkStatus 12#4 true } ∧
        ∀ dist len, exec (.matchTok dist len) s = .next { s with status := mkStatus 12#4 true }) ∧
    (s.cfg.Bounded → s.isValid .dec = true → s.isValid .hdr = true → s.isValid .br = true → s.isValid .rd = true →
      s.isValid .ss = true → s.cumAt 256 = 4096 → s.len .out < s.hdr.origSize.toNat →
      s.len .flags ≤ capacity s.cfg .flags → s.len .mtch ≤ capacity s.cfg .mtch → s.len .rans ≤ capacity s.cfg .rans →
      s.len .out ≤ capacity s.cfg .out → s.flagsBit s.brPos.toNat = true →
      (s.len .mtch < s.decMpos.toNat + 3 →
        exec .decStep s = .next { s with brPos := s.brPos + 1#32, status := mkStatus 3#4 true }) ∧
      (s.decMpos.toNat + 3 ≤ s.len .mtch →
        ((s.byte .mtch s.decMpos.toNat).toNat + 256 * (s.byte .mtch (s.decMpos.toNat + 1)).toNat = 0 ∨
          s.len .out < (s.byte .mtch s.decMpos.toNat).toNat + 256 * (s.byte .mtch (s.decMpos.toNat + 1)).toNat) →
        exec .decStep s = .next { s with
          brPos := s.brPos + 1#32, decMpos := s.decMpos + 3#32, status := mkStatus 4#4 true }))

/-- `DEC.RUN` is `DEC.STEP` while `OUT_LEN < HDR.orig_size` (45_orchestration R243): with nothing to do it sets `DONE` and, under the
parameter `DEC_OVERSHOOT = truncate`, `OUT_LEN` to `HDR.orig_size` (R242; 93 U5; log 3); otherwise it is one `DEC.STEP` and then,
unless that faulted, `DEC.RUN` again. It is refused while a unit or the model is not ready. -/
def Obligations.DecRunUnrolls : Prop :=
  ∀ s : State, s.err = 0#4 →
    (s.isValid .dec = false ∨ s.isValid .hdr = false ∨ s.isValid .br = false ∨ s.isValid .rd = false ∨ s.isValid .ss = false ∨
        s.cumAt 256 ≠ 4096 → exec .decRun s = .next { s with status := mkStatus 12#4 true }) ∧
    (s.cfg.Bounded → s.isValid .dec = true → s.isValid .hdr = true → s.isValid .br = true → s.isValid .rd = true →
      s.isValid .ss = true → s.cumAt 256 = 4096 → s.hdr.origSize.toNat ≤ s.cfg.nMax →
      (s.hdr.origSize.toNat ≤ s.len .out → exec .decRun s = .next { s with
        out := { s.out with len := if s.cfg.decOvershoot = .truncate then s.hdr.origSize else s.out.len }
        status := mkStatus 0#4 true }) ∧
      (s.len .out < s.hdr.origSize.toNat →
        ∃ u, exec .decStep s = .next u ∧ (u.err ≠ 0#4 → exec .decRun s = .next u) ∧
          (u.err = 0#4 → exec .decRun s = exec .decRun u)))

/-- `DEC.RUN` to its end (45_orchestration R242, R243): with no flag bit left every token is a literal and it ends `ok` exactly at
`HDR.orig_size`; whenever it ends `ok` the output has reached `HDR.orig_size`, and passes it by at most 254 bytes under
`DEC_OVERSHOOT = keep` and not at all under `truncate` (93 U5; log 3); the bytes that stood in the output still stand. -/
def Obligations.DecRunEnds : Prop :=
  ∀ s : State, s.err = 0#4 → s.cfg.Bounded → s.hdr.origSize.toNat ≤ s.cfg.nMax →
    (decReady s = true → 8 * s.len .flags ≤ s.brPos.toNat →
      s.len .flags ≤ capacity s.cfg .flags → s.len .mtch ≤ capacity s.cfg .mtch → s.len .rans ≤ capacity s.cfg .rans →
      ∃ t, exec .decRun s = .next t ∧ t.status = mkStatus 0#4 true ∧
        t.len .out = (if s.cfg.decOvershoot = .truncate then s.hdr.origSize.toNat
          else max (s.len .out) s.hdr.origSize.toNat) ∧ t.brPos = s.brPos ∧ t.decMpos = s.decMpos) ∧
    (∀ t, exec .decRun s = .next t → t.err = 0#4 →
      s.hdr.origSize.toNat ≤ t.len .out ∧ t.len .out ≤ max (s.len .out) (s.hdr.origSize.toNat + 254) ∧
      (s.cfg.decOvershoot = .keep → s.len .out ≤ t.len .out) ∧
      (s.cfg.decOvershoot = .truncate → t.len .out = s.hdr.origSize.toNat) ∧
      ∀ a, a < s.len .out → t.byte .out a = s.byte .out a)

/-! ### Composite commands -/

/-- `COMPRESS` of an empty input (45_orchestration R232) leaves the empty artifact and reports `EmptyInput` with no unit command
run, the block otherwise as the re-initialisation leaves it (70_reset R306); of an input longer than `N_MAX` (R234) it raises
`SizeOverflow` and touches nothing. -/
def Obligations.CompressEmptyOrTooLong : Prop :=
  ∀ s : State, s.err = 0#4 →
    (s.len .inp = 0 →
      ∃ t, exec .compress s = .next t ∧ t.status = mkStatus 5#4 true ∧ t.len .art = 0 ∧ t.valid = 0#8 ∧
        ReinitValues .inp t ∧ Unchanged (writesOf .compress) s t) ∧
    (s.cfg.nMax < s.len .inp → exec .compress s = .next { s with status := mkStatus 13#4 true })

/-- `COMPRESS` of a non-empty input completes, with the document's constants and with consistent ones (45_orchestration R234, R248;
00_scope R6; 42_rans R166): the whole input is parsed, the flags and the encoder are
flushed, the header and the artifact's length are those of the four regions, the decoder's side is as the re-initialisation leaves it
(70_reset R306), and the input and the operand registers are kept. -/
def Obligations.CompressCompletes : Prop :=
  ∀ s : State, s.err = 0#4 → s.cfg.Bounded → (s.cfg.Documented ∨ s.cfg.RenormConsistent) → 1 ≤ s.len .inp →
    s.len .inp ≤ s.cfg.nMax →
    ∃ t m, exec .compress s = .next t ∧ t.status = mkStatus 0#4 true ∧ t.valid = 0x31#8 ∧ t.lzP = s.inp.len ∧
      t.bwCnt = 0#3 ∧ t.bwCur = 0#8 ∧ t.len .out = 0 ∧ t.brPos = 0#32 ∧ t.decMpos = 0#32 ∧ t.len .model = 512 ∧
      t.len .mtch = 3 * m ∧ t.len .flags = ceilDiv8 (t.len .lit + m) ∧
      4 ≤ t.len .rans ∧ t.len .rans ≤ 2 * t.len .lit + 4 ∧
      t.hdr = { magic := 0x4D49444F#32, origSize := s.inp.len, ransSize := t.rans.len, flagsSize := t.flags.len,
                matchSize := t.mtch.len, modelSize := 512#32 } ∧
      t.len .art = 536 + t.len .rans + t.len .flags + t.len .mtch ∧
      t.number32 .art 0 = 0x4D49444F ∧ t.number32 .art 4 = s.len .inp ∧ t.number32 .art 8 = t.len .rans ∧
      t.number32 .art 12 = t.len .flags ∧ t.number32 .art 16 = t.len .mtch ∧ t.number32 .art 20 = 512 ∧
      (∀ k, k < t.len .rans → t.byte .art (24 + k) = t.byte .rans k) ∧
      (∀ k, k < t.len .flags → t.byte .art (24 + t.len .rans + k) = t.byte .flags k) ∧
      (∀ k, k < t.len .mtch → t.byte .art (24 + t.len .rans + t.len .flags + k) = t.byte .mtch k) ∧
      (∀ sym : Byte, t.regionFreq .art (24 + t.len .rans + t.len .flags + t.len .mtch) sym = t.freq sym) ∧
      Unchanged (writesOf .compress) s t ∧ ∀ a, t.byte .inp a = s.byte .inp a

/-- `COMPRESS` is a function of the input and `DECOMPRESS` of the artifact (45_orchestration R247): from two states with the same
parameters and the same input, and whatever else differs, `COMPRESS` ends with the same code and the same artifact, and `DECOMPRESS`
of the same artifact with the same code and the same output. (An `ART_LEN` above the capacity stops it before it touches `OUT`.) -/
def Obligations.CompressIsAFunctionOfItsInput : Prop :=
  (∀ s s' t t' : State, s.err = 0#4 → s'.err = 0#4 → s.cfg.Bounded → s'.cfg = s.cfg → s'.len .inp = s.len .inp →
    (∀ a, a < s.len .inp → s'.byte .inp a = s.byte .inp a) →
    exec .compress s = .next t → exec .compress s' = .next t' →
    t'.err = t.err ∧ (t.err = 0#4 → t'.len .art = t.len .art ∧ ∀ a, a < t.len .art → t'.byte .art a = t.byte .art a)) ∧
  (∀ s s' t t' : State, s.err = 0#4 → s'.err = 0#4 → s.cfg.Bounded → s'.cfg = s.cfg → s'.len .art = s.len .art →
    (∀ a, a < s.len .art → s'.byte .art a = s.byte .art a) →
    exec .decompress s = .next t → exec .decompress s' = .next t' →
    t'.err = t.err ∧ (s.len .art ≤ capacity s.cfg .art →
      t'.len .out = t.len .out ∧ ∀ a, a < t.len .out → t'.byte .out a = t.byte .out a))

/-- `DECOMPRESS` reports the first check that fails (45_orchestration R236, 60_exceptions R274): those of `CT.UNPACK`, then the model's
sum, then the original size; the artifact and the operand registers are kept. -/
def Obligations.DecompressFaults : Prop :=
  ∀ s : State, s.err = 0#4 → s.cfg.Bounded →
    (capacity s.cfg .art < s.len .art → exec .decompress s = .next { s with status := mkStatus 13#4 true }) ∧
    (s.len .art ≤ capacity s.cfg .art →
      ∃ t, exec .decompress s = .next t ∧ Unchanged (writesOf .decompress) s t ∧ (∀ a, t.byte .art a = s.byte .art a) ∧
        (unpackCode s ≠ 0#4 → t.status = mkStatus (unpackCode s) true ∧ ReinitValues .art t) ∧
        (unpackCode s = 0#4 →
          sumSymbols (s.regionFreq .art (24 + s.number32 .art 8 + s.number32 .art 12 + s.number32 .art 16)) ≠ 4096 →
          t.status = mkStatus 10#4 true) ∧
        (unpackCode s = 0#4 →
          sumSymbols (s.regionFreq .art (24 + s.number32 .art 8 + s.number32 .art 12 + s.number32 .art 16)) = 4096 →
          s.cfg.nMax < s.number32 .art 4 → t.status = mkStatus 13#4 true))

/-- `DECOMPRESS` of an artifact that passes every check (45_orchestration R236, R242, R243; 70_reset R306): the unit commands complete
in their order after the re-initialisation, and `DECOMPRESS` ends as `DEC.RUN` ends in the state they leave: `ok`, or with
`MatchUnderflow` or `InvalidDistance`, the units valid in each case. `ok` means that the output has reached the original size, passing
it by at most 254 bytes and under `DEC_OVERSHOOT = truncate` (93 U5; log 3) not at all; without flag bytes its tokens are all
literals, and it is `ok` with exactly the original size. -/
def Obligations.DecompressCompletes : Prop :=
  ∀ s : State, s.err = 0#4 → s.cfg.Bounded → s.len .art ≤ capacity s.cfg .art →
    unpackCode s = 0#4 → s.number32 .art 4 ≤ s.cfg.nMax →
    sumSymbols (s.regionFreq .art (24 + s.number32 .art 8 + s.number32 .art 12 + s.number32 .art 16)) = 4096 →
    ReinitValues .art (s.reinit s.cfg .art) ∧
    ∃ s₁ s₂ s₃ s₄ s₅ t, exec .ctUnpack (s.reinit s.cfg .art) = .next s₁ ∧ exec .ssLoad s₁ = .next s₂ ∧
      exec .rdInit s₂ = .next s₃ ∧ exec .brInit s₃ = .next s₄ ∧ exec .decInit s₄ = .next s₅ ∧ s₅.status = mkStatus 0#4 true ∧
      exec .decRun s₅ = .next t ∧ exec .decompress s = .next t ∧
      t.status = mkStatus t.err true ∧ t.err ∈ [0#4, 3#4, 4#4] ∧ t.valid = 0x6D#8 ∧
      t.hdr.origSize.toNat = s.number32 .art 4 ∧ t.ModelOk ∧
      (t.err = 0#4 → s.number32 .art 4 ≤ t.len .out ∧ t.len .out ≤ s.number32 .art 4 + 254 ∧
        (s.cfg.decOvershoot = .truncate → t.len .out = s.number32 .art 4)) ∧
      (s.number32 .art 12 = 0 → t.err = 0#4 ∧ t.len .out = s.number32 .art 4) ∧
      Unchanged (writesOf .decompress) s t ∧ ∀ a, t.byte .art a = s.byte .art a

/-- The end-to-end round trip (45_orchestration R245, 42_rans R178 case 1) when the encoder emitted no renormalisation byte, for all
parameter values for which 42_rans R180 says the registers hold every value, the document's among them: `DECOMPRESS` of what
`COMPRESS` left returns the input. -/
def Obligations.RoundTripWithoutRenormalisation : Prop :=
  ∀ s t : State, s.err = 0#4 → s.cfg.Bounded → s.cfg.ransL ≤ 2 ^ 24 → s.cfg.encBoundShift + 12 ≤ 32 →
    1 ≤ s.len .inp → s.len .inp ≤ s.cfg.nMax → exec .compress s = .next t → t.err = 0#4 → t.len .rans = 4 →
    ∃ u, exec .decompress t = .next u ∧ u.status = mkStatus 0#4 true ∧ u.len .out = s.len .inp ∧
      ∀ a, a < s.len .inp → u.byte .out a = s.byte .inp a

/-- The end-to-end round trip for consistent constants (45_orchestration R245; 42_rans R178 case 2, which the spec takes from general
knowledge), for a `RANS_L` that is a multiple of `PROB_SCALE`, as both consistent pairs of 00_scope R6 are: `COMPRESS` of every
non-empty input ends `ok`, and `DECOMPRESS` of what it left returns the input. -/
def Obligations.RoundTripUnderRenormConsistent : Prop :=
  ∀ s : State, s.err = 0#4 → s.cfg.Bounded → s.cfg.RenormConsistent → s.cfg.ransL % 4096 = 0 →
    1 ≤ s.len .inp → s.len .inp ≤ s.cfg.nMax →
    ∃ t u, exec .compress s = .next t ∧ t.status = mkStatus 0#4 true ∧ exec .decompress t = .next u ∧
      u.status = mkStatus 0#4 true ∧ u.len .out = s.len .inp ∧ ∀ a, a < s.len .inp → u.byte .out a = s.byte .inp a

/-! ### Invariants of every step -/

/-- The invariants hold at reset. -/
def Obligations.InvariantsAtReset : Prop :=
  State.reset.MemWf ∧ State.reset.ReservedZero ∧ State.reset.WriterInv ∧ State.reset.ModelInv ∧ State.reset.EncoderInv

/-- Every step keeps every buffer's memory in its canonical form, the model's own representation (log 4). -/
def Obligations.StepKeepsMemoryCanonical : Prop := ∀ s t : State, step s = .next t → s.MemWf → t.MemWf

/-- Every step keeps the reserved bits at 0 (10_state R24, R25) and the BitWriter's byte zero below the bits placed (10_state R23,
40_bitio R121). -/
def Obligations.StepKeepsReservedAndWriter : Prop :=
  ∀ s t : State, step s = .next t → s.ReservedZero ∧ s.WriterInv → t.ReservedZero ∧ t.WriterInv

/-- Every step keeps the model invariant (10_state R27) and the bounds of an open encoder's state (42_rans R176), with the
document's constants. -/
def Obligations.StepKeepsModelAndEncoder : Prop :=
  ∀ s t : State, step s = .next t → s.cfg.Documented → s.ModelInv ∧ s.EncoderInv → t.ModelInv ∧ t.EncoderInv

/-! ### Frames -/

/-- The commands that store nothing leave every byte of every buffer, and every register but those their rules name. -/
def Obligations.FrameOfCommandsThatStoreNothing : Prop :=
  ∀ (i : Instr) (s t : State),
    i ∈ [Instr.bwInit, .bwBytes, .brInit, .brRbit, .brRbits, .ssCount, .ssLoad, .reInit, .rdInit, .rdGet, .lzInit, .decInit] →
    exec i s = .next t → Unchanged (writesOf i) s t ∧ AllBytesKept s t

/-- The commands and tokens that store leave every register but those their rules name, and every byte outside the addresses from
which they append or store (45_orchestration R253) up to the length the buffer then has, or, for a `DEC.RUN` that may cut that length
back (`DEC_OVERSHOOT = truncate`, 93 U5; log 3), up to 254 bytes past `HDR.orig_size`. -/
def Obligations.FrameOfCommandsThatStore : Prop :=
  ∀ (i : Instr) (s t : State), s.cfg.Bounded →
    ((∃ dist len, i = .matchTok dist len) ∨
      i ∈ [Instr.bwWbit, .bwWbits, .bwFlush, .ssStore, .rePut, .reFlush, .lzStep, .lzParse, .ctPack, .ctUnpack, .decStep,
        .decRun, .lit]) →
    exec i s = .next t →
    Unchanged (writesOf i) s t ∧
      ∀ sp a, (∀ from_, storesFrom i s sp = some from_ → a < from_ ∨ storesUpTo i s t sp ≤ a) → t.byte sp a = s.byte sp a

/-- The composite commands leave `ARG0`, `ARG1`, `RESULT` (45_orchestration R230) and their input buffer with its length register
(70_reset R306). -/
def Obligations.FrameOfCompositeCommands : Prop :=
  (∀ s t : State, exec .compress s = .next t → Unchanged (writesOf .compress) s t ∧ ∀ a, t.byte .inp a = s.byte .inp a) ∧
  (∀ s t : State, exec .decompress s = .next t → Unchanged (writesOf .decompress) s t ∧ ∀ a, t.byte .art a = s.byte .art a)

/-! ### Input buffers whose length register exceeds the capacity -/

/-- A command whose precondition holds and whose input buffer's length register exceeds the capacity raises `SizeOverflow` and
changes nothing else (20_memory R70; 60_exceptions R268, R274). Which buffers a command reads is the model's inference (log 14). -/
def Obligations.InputBufferOverflow : Prop :=
  ∀ s : State, s.err = 0#4 →
    (∀ i sp, (i, sp) ∈ [(Instr.brInit, Space.flags), (.ssCount, .inp), (.lzParse, .inp), (.rdInit, .rans), (.ctUnpack, .art),
        (.compress, .inp), (.decompress, .art)] → capacity s.cfg sp < s.len sp →
      exec i s = .next { s with status := mkStatus 13#4 true }) ∧
    (s.isValid .br = true → capacity s.cfg .flags < s.len .flags →
      exec .brRbit s = .next { s with status := mkStatus 13#4 true } ∧
        (s.arg0.toNat ≤ 32 → exec .brRbits s = .next { s with status := mkStatus 13#4 true })) ∧
    (s.isValid .rd = true → s.isValid .ss = true → s.cumAt 256 = 4096 → capacity s.cfg .rans < s.len .rans →
      exec .rdGet s = .next { s with status := mkStatus 13#4 true }) ∧
    (s.isValid .lz = true → s.lzP.toNat < s.len .inp → capacity s.cfg .inp < s.len .inp →
      exec .lzStep s = .next { s with status := mkStatus 13#4 true }) ∧
    (s.len .model = 512 → s.bwCnt = 0#3 → s.isValid .re = false →
      ∀ sp ∈ [Space.rans, .flags, .mtch], capacity s.cfg sp < s.len sp →
        exec .ctPack s = .next { s with status := mkStatus 13#4 true }) ∧
    (decReady s = true → s.len .out < s.hdr.origSize.toNat →
      ∀ sp ∈ [Space.flags, .mtch, .rans, .out], capacity s.cfg sp < s.len sp →
        exec .decStep s = .next { s with status := mkStatus 13#4 true })
end

