-- ==== Sys2Proof/Laws/State.lean ====
section
/-! SUPPORT. One lemma per field per named update of `State`, and what each update does to the buffers. -/

namespace Sys2Proof.Machine

@[simp] theorem State.setDone_cmd (b : Bool) (s : State) : (s.setDone b).cmd = s.cmd := rfl
@[simp] theorem State.setDone_arg0 (b : Bool) (s : State) : (s.setDone b).arg0 = s.arg0 := rfl
@[simp] theorem State.setDone_arg1 (b : Bool) (s : State) : (s.setDone b).arg1 = s.arg1 := rfl
@[simp] theorem State.setDone_result (b : Bool) (s : State) : (s.setDone b).result = s.result := rfl
@[simp] theorem State.setDone_valid (b : Bool) (s : State) : (s.setDone b).valid = s.valid := rfl
@[simp] theorem State.setDone_hdr (b : Bool) (s : State) : (s.setDone b).hdr = s.hdr := rfl
@[simp] theorem State.setDone_bwCur (b : Bool) (s : State) : (s.setDone b).bwCur = s.bwCur := rfl
@[simp] theorem State.setDone_bwCnt (b : Bool) (s : State) : (s.setDone b).bwCnt = s.bwCnt := rfl
@[simp] theorem State.setDone_brPos (b : Bool) (s : State) : (s.setDone b).brPos = s.brPos := rfl
@[simp] theorem State.setDone_reState (b : Bool) (s : State) : (s.setDone b).reState = s.reState := rfl
@[simp] theorem State.setDone_rdState (b : Bool) (s : State) : (s.setDone b).rdState = s.rdState := rfl
@[simp] theorem State.setDone_rdPtr (b : Bool) (s : State) : (s.setDone b).rdPtr = s.rdPtr := rfl
@[simp] theorem State.setDone_lzP (b : Bool) (s : State) : (s.setDone b).lzP = s.lzP := rfl
@[simp] theorem State.setDone_decMpos (b : Bool) (s : State) : (s.setDone b).decMpos = s.decMpos := rfl
@[simp] theorem State.setDone_raw (b : Bool) (s : State) : (s.setDone b).raw = s.raw := rfl
@[simp] theorem State.setDone_freqs (b : Bool) (s : State) : (s.setDone b).freqs = s.freqs := rfl
@[simp] theorem State.setDone_cum (b : Bool) (s : State) : (s.setDone b).cum = s.cum := rfl
@[simp] theorem State.setDone_inp (b : Bool) (s : State) : (s.setDone b).inp = s.inp := rfl
@[simp] theorem State.setDone_lit (b : Bool) (s : State) : (s.setDone b).lit = s.lit := rfl
@[simp] theorem State.setDone_rans (b : Bool) (s : State) : (s.setDone b).rans = s.rans := rfl
@[simp] theorem State.setDone_flags (b : Bool) (s : State) : (s.setDone b).flags = s.flags := rfl
@[simp] theorem State.setDone_mtch (b : Bool) (s : State) : (s.setDone b).mtch = s.mtch := rfl
@[simp] theorem State.setDone_model (b : Bool) (s : State) : (s.setDone b).model = s.model := rfl
@[simp] theorem State.setDone_art (b : Bool) (s : State) : (s.setDone b).art = s.art := rfl
@[simp] theorem State.setDone_out (b : Bool) (s : State) : (s.setDone b).out = s.out := rfl
@[simp] theorem State.setDone_bwFlushed (b : Bool) (s : State) : (s.setDone b).bwFlushed = s.bwFlushed := rfl
@[simp] theorem State.setDone_epoch (b : Bool) (s : State) : (s.setDone b).epoch = s.epoch := rfl
@[simp] theorem State.setDone_pending (b : Bool) (s : State) : (s.setDone b).pending = s.pending := rfl
@[simp] theorem State.setDone_cfg (b : Bool) (s : State) : (s.setDone b).cfg = s.cfg := rfl

@[simp] theorem State.recordErr_cmd (k : ErrKind) (s : State) : (s.recordErr k).cmd = s.cmd := by
  unfold State.recordErr; split <;> rfl
@[simp] theorem State.recordErr_arg0 (k : ErrKind) (s : State) : (s.recordErr k).arg0 = s.arg0 := by
  unfold State.recordErr; split <;> rfl
@[simp] theorem State.recordErr_arg1 (k : ErrKind) (s : State) : (s.recordErr k).arg1 = s.arg1 := by
  unfold State.recordErr; split <;> rfl
@[simp] theorem State.recordErr_result (k : ErrKind) (s : State) : (s.recordErr k).result = s.result := by
  unfold State.recordErr; split <;> rfl
@[simp] theorem State.recordErr_valid (k : ErrKind) (s : State) : (s.recordErr k).valid = s.valid := by
  unfold State.recordErr; split <;> rfl
@[simp] theorem State.recordErr_hdr (k : ErrKind) (s : State) : (s.recordErr k).hdr = s.hdr := by
  unfold State.recordErr; split <;> rfl
@[simp] theorem State.recordErr_bwCur (k : ErrKind) (s : State) : (s.recordErr k).bwCur = s.bwCur := by
  unfold State.recordErr; split <;> rfl
@[simp] theorem State.recordErr_bwCnt (k : ErrKind) (s : State) : (s.recordErr k).bwCnt = s.bwCnt := by
  unfold State.recordErr; split <;> rfl
@[simp] theorem State.recordErr_brPos (k : ErrKind) (s : State) : (s.recordErr k).brPos = s.brPos := by
  unfold State.recordErr; split <;> rfl
@[simp] theorem State.recordErr_reState (k : ErrKind) (s : State) : (s.recordErr k).reState = s.reState := by
  unfold State.recordErr; split <;> rfl
@[simp] theorem State.recordErr_rdState (k : ErrKind) (s : State) : (s.recordErr k).rdState = s.rdState := by
  unfold State.recordErr; split <;> rfl
@[simp] theorem State.recordErr_rdPtr (k : ErrKind) (s : State) : (s.recordErr k).rdPtr = s.rdPtr := by
  unfold State.recordErr; split <;> rfl
@[simp] theorem State.recordErr_lzP (k : ErrKind) (s : State) : (s.recordErr k).lzP = s.lzP := by
  unfold State.recordErr; split <;> rfl
@[simp] theorem State.recordErr_decMpos (k : ErrKind) (s : State) : (s.recordErr k).decMpos = s.decMpos := by
  unfold State.recordErr; split <;> rfl
@[simp] theorem State.recordErr_raw (k : ErrKind) (s : State) : (s.recordErr k).raw = s.raw := by
  unfold State.recordErr; split <;> rfl
@[simp] theorem State.recordErr_freqs (k : ErrKind) (s : State) : (s.recordErr k).freqs = s.freqs := by
  unfold State.recordErr; split <;> rfl
@[simp] theorem State.recordErr_cum (k : ErrKind) (s : State) : (s.recordErr k).cum = s.cum := by
  unfold State.recordErr; split <;> rfl
@[simp] theorem State.recordErr_inp (k : ErrKind) (s : State) : (s.recordErr k).inp = s.inp := by
  unfold State.recordErr; split <;> rfl
@[simp] theorem State.recordErr_lit (k : ErrKind) (s : State) : (s.recordErr k).lit = s.lit := by
  unfold State.recordErr; split <;> rfl
@[simp] theorem State.recordErr_rans (k : ErrKind) (s : State) : (s.recordErr k).rans = s.rans := by
  unfold State.recordErr; split <;> rfl
@[simp] theorem State.recordErr_flags (k : ErrKind) (s : State) : (s.recordErr k).flags = s.flags := by
  unfold State.recordErr; split <;> rfl
@[simp] theorem State.recordErr_mtch (k : ErrKind) (s : State) : (s.recordErr k).mtch = s.mtch := by
  unfold State.recordErr; split <;> rfl
@[simp] theorem State.recordErr_model (k : ErrKind) (s : State) : (s.recordErr k).model = s.model := by
  unfold State.recordErr; split <;> rfl
@[simp] theorem State.recordErr_art (k : ErrKind) (s : State) : (s.recordErr k).art = s.art := by
  unfold State.recordErr; split <;> rfl
@[simp] theorem State.recordErr_out (k : ErrKind) (s : State) : (s.recordErr k).out = s.out := by
  unfold State.recordErr; split <;> rfl
@[simp] theorem State.recordErr_bwFlushed (k : ErrKind) (s : State) : (s.recordErr k).bwFlushed = s.bwFlushed := by
  unfold State.recordErr; split <;> rfl
@[simp] theorem State.recordErr_epoch (k : ErrKind) (s : State) : (s.recordErr k).epoch = s.epoch := by
  unfold State.recordErr; split <;> rfl
@[simp] theorem State.recordErr_pending (k : ErrKind) (s : State) : (s.recordErr k).pending = s.pending := by
  unfold State.recordErr; split <;> rfl
@[simp] theorem State.recordErr_cfg (k : ErrKind) (s : State) : (s.recordErr k).cfg = s.cfg := by
  unfold State.recordErr; split <;> rfl

@[simp] theorem State.setValid_cmd (u : ValidBit) (s : State) : (s.setValid u).cmd = s.cmd := rfl
@[simp] theorem State.setValid_arg0 (u : ValidBit) (s : State) : (s.setValid u).arg0 = s.arg0 := rfl
@[simp] theorem State.setValid_arg1 (u : ValidBit) (s : State) : (s.setValid u).arg1 = s.arg1 := rfl
@[simp] theorem State.setValid_result (u : ValidBit) (s : State) : (s.setValid u).result = s.result := rfl
@[simp] theorem State.setValid_status (u : ValidBit) (s : State) : (s.setValid u).status = s.status := rfl
@[simp] theorem State.setValid_hdr (u : ValidBit) (s : State) : (s.setValid u).hdr = s.hdr := rfl
@[simp] theorem State.setValid_bwCur (u : ValidBit) (s : State) : (s.setValid u).bwCur = s.bwCur := rfl
@[simp] theorem State.setValid_bwCnt (u : ValidBit) (s : State) : (s.setValid u).bwCnt = s.bwCnt := rfl
@[simp] theorem State.setValid_brPos (u : ValidBit) (s : State) : (s.setValid u).brPos = s.brPos := rfl
@[simp] theorem State.setValid_reState (u : ValidBit) (s : State) : (s.setValid u).reState = s.reState := rfl
@[simp] theorem State.setValid_rdState (u : ValidBit) (s : State) : (s.setValid u).rdState = s.rdState := rfl
@[simp] theorem State.setValid_rdPtr (u : ValidBit) (s : State) : (s.setValid u).rdPtr = s.rdPtr := rfl
@[simp] theorem State.setValid_lzP (u : ValidBit) (s : State) : (s.setValid u).lzP = s.lzP := rfl
@[simp] theorem State.setValid_decMpos (u : ValidBit) (s : State) : (s.setValid u).decMpos = s.decMpos := rfl
@[simp] theorem State.setValid_raw (u : ValidBit) (s : State) : (s.setValid u).raw = s.raw := rfl
@[simp] theorem State.setValid_freqs (u : ValidBit) (s : State) : (s.setValid u).freqs = s.freqs := rfl
@[simp] theorem State.setValid_cum (u : ValidBit) (s : State) : (s.setValid u).cum = s.cum := rfl
@[simp] theorem State.setValid_inp (u : ValidBit) (s : State) : (s.setValid u).inp = s.inp := rfl
@[simp] theorem State.setValid_lit (u : ValidBit) (s : State) : (s.setValid u).lit = s.lit := rfl
@[simp] theorem State.setValid_rans (u : ValidBit) (s : State) : (s.setValid u).rans = s.rans := rfl
@[simp] theorem State.setValid_flags (u : ValidBit) (s : State) : (s.setValid u).flags = s.flags := rfl
@[simp] theorem State.setValid_mtch (u : ValidBit) (s : State) : (s.setValid u).mtch = s.mtch := rfl
@[simp] theorem State.setValid_model (u : ValidBit) (s : State) : (s.setValid u).model = s.model := rfl
@[simp] theorem State.setValid_art (u : ValidBit) (s : State) : (s.setValid u).art = s.art := rfl
@[simp] theorem State.setValid_out (u : ValidBit) (s : State) : (s.setValid u).out = s.out := rfl
@[simp] theorem State.setValid_bwFlushed (u : ValidBit) (s : State) : (s.setValid u).bwFlushed = s.bwFlushed := rfl
@[simp] theorem State.setValid_epoch (u : ValidBit) (s : State) : (s.setValid u).epoch = s.epoch := rfl
@[simp] theorem State.setValid_pending (u : ValidBit) (s : State) : (s.setValid u).pending = s.pending := rfl
@[simp] theorem State.setValid_cfg (u : ValidBit) (s : State) : (s.setValid u).cfg = s.cfg := rfl

@[simp] theorem State.clearValid_cmd (u : ValidBit) (s : State) : (s.clearValid u).cmd = s.cmd := rfl
@[simp] theorem State.clearValid_arg0 (u : ValidBit) (s : State) : (s.clearValid u).arg0 = s.arg0 := rfl
@[simp] theorem State.clearValid_arg1 (u : ValidBit) (s : State) : (s.clearValid u).arg1 = s.arg1 := rfl
@[simp] theorem State.clearValid_result (u : ValidBit) (s : State) : (s.clearValid u).result = s.result := rfl
@[simp] theorem State.clearValid_status (u : ValidBit) (s : State) : (s.clearValid u).status = s.status := rfl
@[simp] theorem State.clearValid_hdr (u : ValidBit) (s : State) : (s.clearValid u).hdr = s.hdr := rfl
@[simp] theorem State.clearValid_bwCur (u : ValidBit) (s : State) : (s.clearValid u).bwCur = s.bwCur := rfl
@[simp] theorem State.clearValid_bwCnt (u : ValidBit) (s : State) : (s.clearValid u).bwCnt = s.bwCnt := rfl
@[simp] theorem State.clearValid_brPos (u : ValidBit) (s : State) : (s.clearValid u).brPos = s.brPos := rfl
@[simp] theorem State.clearValid_reState (u : ValidBit) (s : State) : (s.clearValid u).reState = s.reState := rfl
@[simp] theorem State.clearValid_rdState (u : ValidBit) (s : State) : (s.clearValid u).rdState = s.rdState := rfl
@[simp] theorem State.clearValid_rdPtr (u : ValidBit) (s : State) : (s.clearValid u).rdPtr = s.rdPtr := rfl
@[simp] theorem State.clearValid_lzP (u : ValidBit) (s : State) : (s.clearValid u).lzP = s.lzP := rfl
@[simp] theorem State.clearValid_decMpos (u : ValidBit) (s : State) : (s.clearValid u).decMpos = s.decMpos := rfl
@[simp] theorem State.clearValid_raw (u : ValidBit) (s : State) : (s.clearValid u).raw = s.raw := rfl
@[simp] theorem State.clearValid_freqs (u : ValidBit) (s : State) : (s.clearValid u).freqs = s.freqs := rfl
@[simp] theorem State.clearValid_cum (u : ValidBit) (s : State) : (s.clearValid u).cum = s.cum := rfl
@[simp] theorem State.clearValid_inp (u : ValidBit) (s : State) : (s.clearValid u).inp = s.inp := rfl
@[simp] theorem State.clearValid_lit (u : ValidBit) (s : State) : (s.clearValid u).lit = s.lit := rfl
@[simp] theorem State.clearValid_rans (u : ValidBit) (s : State) : (s.clearValid u).rans = s.rans := rfl
@[simp] theorem State.clearValid_flags (u : ValidBit) (s : State) : (s.clearValid u).flags = s.flags := rfl
@[simp] theorem State.clearValid_mtch (u : ValidBit) (s : State) : (s.clearValid u).mtch = s.mtch := rfl
@[simp] theorem State.clearValid_model (u : ValidBit) (s : State) : (s.clearValid u).model = s.model := rfl
@[simp] theorem State.clearValid_art (u : ValidBit) (s : State) : (s.clearValid u).art = s.art := rfl
@[simp] theorem State.clearValid_out (u : ValidBit) (s : State) : (s.clearValid u).out = s.out := rfl
@[simp] theorem State.clearValid_bwFlushed (u : ValidBit) (s : State) : (s.clearValid u).bwFlushed = s.bwFlushed := rfl
@[simp] theorem State.clearValid_epoch (u : ValidBit) (s : State) : (s.clearValid u).epoch = s.epoch := rfl
@[simp] theorem State.clearValid_pending (u : ValidBit) (s : State) : (s.clearValid u).pending = s.pending := rfl
@[simp] theorem State.clearValid_cfg (u : ValidBit) (s : State) : (s.clearValid u).cfg = s.cfg := rfl

@[simp] theorem State.issue_arg0 (v : Word) (s : State) : (s.issue v).arg0 = s.arg0 := rfl
@[simp] theorem State.issue_arg1 (v : Word) (s : State) : (s.issue v).arg1 = s.arg1 := rfl
@[simp] theorem State.issue_result (v : Word) (s : State) : (s.issue v).result = s.result := rfl
@[simp] theorem State.issue_valid (v : Word) (s : State) : (s.issue v).valid = s.valid := rfl
@[simp] theorem State.issue_hdr (v : Word) (s : State) : (s.issue v).hdr = s.hdr := rfl
@[simp] theorem State.issue_bwCur (v : Word) (s : State) : (s.issue v).bwCur = s.bwCur := rfl
@[simp] theorem State.issue_bwCnt (v : Word) (s : State) : (s.issue v).bwCnt = s.bwCnt := rfl
@[simp] theorem State.issue_brPos (v : Word) (s : State) : (s.issue v).brPos = s.brPos := rfl
@[simp] theorem State.issue_reState (v : Word) (s : State) : (s.issue v).reState = s.reState := rfl
@[simp] theorem State.issue_rdState (v : Word) (s : State) : (s.issue v).rdState = s.rdState := rfl
@[simp] theorem State.issue_rdPtr (v : Word) (s : State) : (s.issue v).rdPtr = s.rdPtr := rfl
@[simp] theorem State.issue_lzP (v : Word) (s : State) : (s.issue v).lzP = s.lzP := rfl
@[simp] theorem State.issue_decMpos (v : Word) (s : State) : (s.issue v).decMpos = s.decMpos := rfl
@[simp] theorem State.issue_raw (v : Word) (s : State) : (s.issue v).raw = s.raw := rfl
@[simp] theorem State.issue_freqs (v : Word) (s : State) : (s.issue v).freqs = s.freqs := rfl
@[simp] theorem State.issue_cum (v : Word) (s : State) : (s.issue v).cum = s.cum := rfl
@[simp] theorem State.issue_inp (v : Word) (s : State) : (s.issue v).inp = s.inp := rfl
@[simp] theorem State.issue_lit (v : Word) (s : State) : (s.issue v).lit = s.lit := rfl
@[simp] theorem State.issue_rans (v : Word) (s : State) : (s.issue v).rans = s.rans := rfl
@[simp] theorem State.issue_flags (v : Word) (s : State) : (s.issue v).flags = s.flags := rfl
@[simp] theorem State.issue_mtch (v : Word) (s : State) : (s.issue v).mtch = s.mtch := rfl
@[simp] theorem State.issue_model (v : Word) (s : State) : (s.issue v).model = s.model := rfl
@[simp] theorem State.issue_art (v : Word) (s : State) : (s.issue v).art = s.art := rfl
@[simp] theorem State.issue_out (v : Word) (s : State) : (s.issue v).out = s.out := rfl
@[simp] theorem State.issue_bwFlushed (v : Word) (s : State) : (s.issue v).bwFlushed = s.bwFlushed := rfl
@[simp] theorem State.issue_epoch (v : Word) (s : State) : (s.issue v).epoch = s.epoch := rfl
@[simp] theorem State.issue_pending (v : Word) (s : State) : (s.issue v).pending = s.pending := rfl
@[simp] theorem State.issue_cfg (v : Word) (s : State) : (s.issue v).cfg = s.cfg := rfl

@[simp] theorem State.takeFault_cmd (k : ErrKind) (s : State) : (s.takeFault k).cmd = s.cmd := by
  simp [State.takeFault]
@[simp] theorem State.takeFault_arg0 (k : ErrKind) (s : State) : (s.takeFault k).arg0 = s.arg0 := by
  simp [State.takeFault]
@[simp] theorem State.takeFault_arg1 (k : ErrKind) (s : State) : (s.takeFault k).arg1 = s.arg1 := by
  simp [State.takeFault]
@[simp] theorem State.takeFault_result (k : ErrKind) (s : State) : (s.takeFault k).result = s.result := by
  simp [State.takeFault]
@[simp] theorem State.takeFault_valid (k : ErrKind) (s : State) : (s.takeFault k).valid = s.valid := by
  simp [State.takeFault]
@[simp] theorem State.takeFault_hdr (k : ErrKind) (s : State) : (s.takeFault k).hdr = s.hdr := by
  simp [State.takeFault]
@[simp] theorem State.takeFault_bwCur (k : ErrKind) (s : State) : (s.takeFault k).bwCur = s.bwCur := by
  simp [State.takeFault]
@[simp] theorem State.takeFault_bwCnt (k : ErrKind) (s : State) : (s.takeFault k).bwCnt = s.bwCnt := by
  simp [State.takeFault]
@[simp] theorem State.takeFault_brPos (k : ErrKind) (s : State) : (s.takeFault k).brPos = s.brPos := by
  simp [State.takeFault]
@[simp] theorem State.takeFault_reState (k : ErrKind) (s : State) : (s.takeFault k).reState = s.reState := by
  simp [State.takeFault]
@[simp] theorem State.takeFault_rdState (k : ErrKind) (s : State) : (s.takeFault k).rdState = s.rdState := by
  simp [State.takeFault]
@[simp] theorem State.takeFault_rdPtr (k : ErrKind) (s : State) : (s.takeFault k).rdPtr = s.rdPtr := by
  simp [State.takeFault]
@[simp] theorem State.takeFault_lzP (k : ErrKind) (s : State) : (s.takeFault k).lzP = s.lzP := by
  simp [State.takeFault]
@[simp] theorem State.takeFault_decMpos (k : ErrKind) (s : State) : (s.takeFault k).decMpos = s.decMpos := by
  simp [State.takeFault]
@[simp] theorem State.takeFault_raw (k : ErrKind) (s : State) : (s.takeFault k).raw = s.raw := by
  simp [State.takeFault]
@[simp] theorem State.takeFault_freqs (k : ErrKind) (s : State) : (s.takeFault k).freqs = s.freqs := by
  simp [State.takeFault]
@[simp] theorem State.takeFault_cum (k : ErrKind) (s : State) : (s.takeFault k).cum = s.cum := by
  simp [State.takeFault]
@[simp] theorem State.takeFault_inp (k : ErrKind) (s : State) : (s.takeFault k).inp = s.inp := by
  simp [State.takeFault]
@[simp] theorem State.takeFault_lit (k : ErrKind) (s : State) : (s.takeFault k).lit = s.lit := by
  simp [State.takeFault]
@[simp] theorem State.takeFault_rans (k : ErrKind) (s : State) : (s.takeFault k).rans = s.rans := by
  simp [State.takeFault]
@[simp] theorem State.takeFault_flags (k : ErrKind) (s : State) : (s.takeFault k).flags = s.flags := by
  simp [State.takeFault]
@[simp] theorem State.takeFault_mtch (k : ErrKind) (s : State) : (s.takeFault k).mtch = s.mtch := by
  simp [State.takeFault]
@[simp] theorem State.takeFault_model (k : ErrKind) (s : State) : (s.takeFault k).model = s.model := by
  simp [State.takeFault]
@[simp] theorem State.takeFault_art (k : ErrKind) (s : State) : (s.takeFault k).art = s.art := by
  simp [State.takeFault]
@[simp] theorem State.takeFault_out (k : ErrKind) (s : State) : (s.takeFault k).out = s.out := by
  simp [State.takeFault]
@[simp] theorem State.takeFault_bwFlushed (k : ErrKind) (s : State) : (s.takeFault k).bwFlushed = s.bwFlushed := by
  simp [State.takeFault]
@[simp] theorem State.takeFault_epoch (k : ErrKind) (s : State) : (s.takeFault k).epoch = s.epoch := by
  simp [State.takeFault]
@[simp] theorem State.takeFault_pending (k : ErrKind) (s : State) : (s.takeFault k).pending = s.pending := by
  simp [State.takeFault]
@[simp] theorem State.takeFault_cfg (k : ErrKind) (s : State) : (s.takeFault k).cfg = s.cfg := by
  simp [State.takeFault]

@[simp] theorem State.takeRefusal_cmd (s : State) : (s.takeRefusal).cmd = s.cmd := by
  simp [State.takeRefusal]
@[simp] theorem State.takeRefusal_arg0 (s : State) : (s.takeRefusal).arg0 = s.arg0 := by
  simp [State.takeRefusal]
@[simp] theorem State.takeRefusal_arg1 (s : State) : (s.takeRefusal).arg1 = s.arg1 := by
  simp [State.takeRefusal]
@[simp] theorem State.takeRefusal_result (s : State) : (s.takeRefusal).result = s.result := by
  simp [State.takeRefusal]
@[simp] theorem State.takeRefusal_valid (s : State) : (s.takeRefusal).valid = s.valid := by
  simp [State.takeRefusal]
@[simp] theorem State.takeRefusal_hdr (s : State) : (s.takeRefusal).hdr = s.hdr := by
  simp [State.takeRefusal]
@[simp] theorem State.takeRefusal_bwCur (s : State) : (s.takeRefusal).bwCur = s.bwCur := by
  simp [State.takeRefusal]
@[simp] theorem State.takeRefusal_bwCnt (s : State) : (s.takeRefusal).bwCnt = s.bwCnt := by
  simp [State.takeRefusal]
@[simp] theorem State.takeRefusal_brPos (s : State) : (s.takeRefusal).brPos = s.brPos := by
  simp [State.takeRefusal]
@[simp] theorem State.takeRefusal_reState (s : State) : (s.takeRefusal).reState = s.reState := by
  simp [State.takeRefusal]
@[simp] theorem State.takeRefusal_rdState (s : State) : (s.takeRefusal).rdState = s.rdState := by
  simp [State.takeRefusal]
@[simp] theorem State.takeRefusal_rdPtr (s : State) : (s.takeRefusal).rdPtr = s.rdPtr := by
  simp [State.takeRefusal]
@[simp] theorem State.takeRefusal_lzP (s : State) : (s.takeRefusal).lzP = s.lzP := by
  simp [State.takeRefusal]
@[simp] theorem State.takeRefusal_decMpos (s : State) : (s.takeRefusal).decMpos = s.decMpos := by
  simp [State.takeRefusal]
@[simp] theorem State.takeRefusal_raw (s : State) : (s.takeRefusal).raw = s.raw := by
  simp [State.takeRefusal]
@[simp] theorem State.takeRefusal_freqs (s : State) : (s.takeRefusal).freqs = s.freqs := by
  simp [State.takeRefusal]
@[simp] theorem State.takeRefusal_cum (s : State) : (s.takeRefusal).cum = s.cum := by
  simp [State.takeRefusal]
@[simp] theorem State.takeRefusal_inp (s : State) : (s.takeRefusal).inp = s.inp := by
  simp [State.takeRefusal]
@[simp] theorem State.takeRefusal_lit (s : State) : (s.takeRefusal).lit = s.lit := by
  simp [State.takeRefusal]
@[simp] theorem State.takeRefusal_rans (s : State) : (s.takeRefusal).rans = s.rans := by
  simp [State.takeRefusal]
@[simp] theorem State.takeRefusal_flags (s : State) : (s.takeRefusal).flags = s.flags := by
  simp [State.takeRefusal]
@[simp] theorem State.takeRefusal_mtch (s : State) : (s.takeRefusal).mtch = s.mtch := by
  simp [State.takeRefusal]
@[simp] theorem State.takeRefusal_model (s : State) : (s.takeRefusal).model = s.model := by
  simp [State.takeRefusal]
@[simp] theorem State.takeRefusal_art (s : State) : (s.takeRefusal).art = s.art := by
  simp [State.takeRefusal]
@[simp] theorem State.takeRefusal_out (s : State) : (s.takeRefusal).out = s.out := by
  simp [State.takeRefusal]
@[simp] theorem State.takeRefusal_bwFlushed (s : State) : (s.takeRefusal).bwFlushed = s.bwFlushed := by
  simp [State.takeRefusal]
@[simp] theorem State.takeRefusal_epoch (s : State) : (s.takeRefusal).epoch = s.epoch := by
  simp [State.takeRefusal]
@[simp] theorem State.takeRefusal_pending (s : State) : (s.takeRefusal).pending = s.pending := by
  simp [State.takeRefusal]
@[simp] theorem State.takeRefusal_cfg (s : State) : (s.takeRefusal).cfg = s.cfg := by
  simp [State.takeRefusal]

@[simp] theorem State.setBuf_cmd (sp : Space) (b : Buf) (s : State) : (s.setBuf sp b).cmd = s.cmd := by
  cases sp <;> rfl
@[simp] theorem State.setBuf_arg0 (sp : Space) (b : Buf) (s : State) : (s.setBuf sp b).arg0 = s.arg0 := by
  cases sp <;> rfl
@[simp] theorem State.setBuf_arg1 (sp : Space) (b : Buf) (s : State) : (s.setBuf sp b).arg1 = s.arg1 := by
  cases sp <;> rfl
@[simp] theorem State.setBuf_result (sp : Space) (b : Buf) (s : State) : (s.setBuf sp b).result = s.result := by
  cases sp <;> rfl
@[simp] theorem State.setBuf_status (sp : Space) (b : Buf) (s : State) : (s.setBuf sp b).status = s.status := by
  cases sp <;> rfl
@[simp] theorem State.setBuf_valid (sp : Space) (b : Buf) (s : State) : (s.setBuf sp b).valid = s.valid := by
  cases sp <;> rfl
@[simp] theorem State.setBuf_hdr (sp : Space) (b : Buf) (s : State) : (s.setBuf sp b).hdr = s.hdr := by
  cases sp <;> rfl
@[simp] theorem State.setBuf_bwCur (sp : Space) (b : Buf) (s : State) : (s.setBuf sp b).bwCur = s.bwCur := by
  cases sp <;> rfl
@[simp] theorem State.setBuf_bwCnt (sp : Space) (b : Buf) (s : State) : (s.setBuf sp b).bwCnt = s.bwCnt := by
  cases sp <;> rfl
@[simp] theorem State.setBuf_brPos (sp : Space) (b : Buf) (s : State) : (s.setBuf sp b).brPos = s.brPos := by
  cases sp <;> rfl
@[simp] theorem State.setBuf_reState (sp : Space) (b : Buf) (s : State) : (s.setBuf sp b).reState = s.reState := by
  cases sp <;> rfl
@[simp] theorem State.setBuf_rdState (sp : Space) (b : Buf) (s : State) : (s.setBuf sp b).rdState = s.rdState := by
  cases sp <;> rfl
@[simp] theorem State.setBuf_rdPtr (sp : Space) (b : Buf) (s : State) : (s.setBuf sp b).rdPtr = s.rdPtr := by
  cases sp <;> rfl
@[simp] theorem State.setBuf_lzP (sp : Space) (b : Buf) (s : State) : (s.setBuf sp b).lzP = s.lzP := by
  cases sp <;> rfl
@[simp] theorem State.setBuf_decMpos (sp : Space) (b : Buf) (s : State) : (s.setBuf sp b).decMpos = s.decMpos := by
  cases sp <;> rfl
@[simp] theorem State.setBuf_raw (sp : Space) (b : Buf) (s : State) : (s.setBuf sp b).raw = s.raw := by
  cases sp <;> rfl
@[simp] theorem State.setBuf_freqs (sp : Space) (b : Buf) (s : State) : (s.setBuf sp b).freqs = s.freqs := by
  cases sp <;> rfl
@[simp] theorem State.setBuf_cum (sp : Space) (b : Buf) (s : State) : (s.setBuf sp b).cum = s.cum := by
  cases sp <;> rfl
@[simp] theorem State.setBuf_bwFlushed (sp : Space) (b : Buf) (s : State) : (s.setBuf sp b).bwFlushed = s.bwFlushed := by
  cases sp <;> rfl
@[simp] theorem State.setBuf_epoch (sp : Space) (b : Buf) (s : State) : (s.setBuf sp b).epoch = s.epoch := by
  cases sp <;> rfl
@[simp] theorem State.setBuf_pending (sp : Space) (b : Buf) (s : State) : (s.setBuf sp b).pending = s.pending := by
  cases sp <;> rfl
@[simp] theorem State.setBuf_cfg (sp : Space) (b : Buf) (s : State) : (s.setBuf sp b).cfg = s.cfg := by
  cases sp <;> rfl

@[simp] theorem State.setLen_cmd (sp : Space) (n : Word) (s : State) : (s.setLen sp n).cmd = s.cmd := by
  simp [State.setLen]
@[simp] theorem State.setLen_arg0 (sp : Space) (n : Word) (s : State) : (s.setLen sp n).arg0 = s.arg0 := by
  simp [State.setLen]
@[simp] theorem State.setLen_arg1 (sp : Space) (n : Word) (s : State) : (s.setLen sp n).arg1 = s.arg1 := by
  simp [State.setLen]
@[simp] theorem State.setLen_result (sp : Space) (n : Word) (s : State) : (s.setLen sp n).result = s.result := by
  simp [State.setLen]
@[simp] theorem State.setLen_status (sp : Space) (n : Word) (s : State) : (s.setLen sp n).status = s.status := by
  simp [State.setLen]
@[simp] theorem State.setLen_valid (sp : Space) (n : Word) (s : State) : (s.setLen sp n).valid = s.valid := by
  simp [State.setLen]
@[simp] theorem State.setLen_hdr (sp : Space) (n : Word) (s : State) : (s.setLen sp n).hdr = s.hdr := by
  simp [State.setLen]
@[simp] theorem State.setLen_bwCur (sp : Space) (n : Word) (s : State) : (s.setLen sp n).bwCur = s.bwCur := by
  simp [State.setLen]
@[simp] theorem State.setLen_bwCnt (sp : Space) (n : Word) (s : State) : (s.setLen sp n).bwCnt = s.bwCnt := by
  simp [State.setLen]
@[simp] theorem State.setLen_brPos (sp : Space) (n : Word) (s : State) : (s.setLen sp n).brPos = s.brPos := by
  simp [State.setLen]
@[simp] theorem State.setLen_reState (sp : Space) (n : Word) (s : State) : (s.setLen sp n).reState = s.reState := by
  simp [State.setLen]
@[simp] theorem State.setLen_rdState (sp : Space) (n : Word) (s : State) : (s.setLen sp n).rdState = s.rdState := by
  simp [State.setLen]
@[simp] theorem State.setLen_rdPtr (sp : Space) (n : Word) (s : State) : (s.setLen sp n).rdPtr = s.rdPtr := by
  simp [State.setLen]
@[simp] theorem State.setLen_lzP (sp : Space) (n : Word) (s : State) : (s.setLen sp n).lzP = s.lzP := by
  simp [State.setLen]
@[simp] theorem State.setLen_decMpos (sp : Space) (n : Word) (s : State) : (s.setLen sp n).decMpos = s.decMpos := by
  simp [State.setLen]
@[simp] theorem State.setLen_raw (sp : Space) (n : Word) (s : State) : (s.setLen sp n).raw = s.raw := by
  simp [State.setLen]
@[simp] theorem State.setLen_freqs (sp : Space) (n : Word) (s : State) : (s.setLen sp n).freqs = s.freqs := by
  simp [State.setLen]
@[simp] theorem State.setLen_cum (sp : Space) (n : Word) (s : State) : (s.setLen sp n).cum = s.cum := by
  simp [State.setLen]
@[simp] theorem State.setLen_bwFlushed (sp : Space) (n : Word) (s : State) : (s.setLen sp n).bwFlushed = s.bwFlushed := by
  simp [State.setLen]
@[simp] theorem State.setLen_epoch (sp : Space) (n : Word) (s : State) : (s.setLen sp n).epoch = s.epoch := by
  simp [State.setLen]
@[simp] theorem State.setLen_pending (sp : Space) (n : Word) (s : State) : (s.setLen sp n).pending = s.pending := by
  simp [State.setLen]
@[simp] theorem State.setLen_cfg (sp : Space) (n : Word) (s : State) : (s.setLen sp n).cfg = s.cfg := by
  simp [State.setLen]

@[simp] theorem State.writeBytes_cmd (sp : Space) (a : Nat) (bs : List Byte) (s : State) : (s.writeBytes sp a bs).cmd = s.cmd := by
  simp [State.writeBytes]
@[simp] theorem State.writeBytes_arg0 (sp : Space) (a : Nat) (bs : List Byte) (s : State) : (s.writeBytes sp a bs).arg0 = s.arg0 := by
  simp [State.writeBytes]
@[simp] theorem State.writeBytes_arg1 (sp : Space) (a : Nat) (bs : List Byte) (s : State) : (s.writeBytes sp a bs).arg1 = s.arg1 := by
  simp [State.writeBytes]
@[simp] theorem State.writeBytes_result (sp : Space) (a : Nat) (bs : List Byte) (s : State) : (s.writeBytes sp a bs).result = s.result := by
  simp [State.writeBytes]
@[simp] theorem State.writeBytes_status (sp : Space) (a : Nat) (bs : List Byte) (s : State) : (s.writeBytes sp a bs).status = s.status := by
  simp [State.writeBytes]
@[simp] theorem State.writeBytes_valid (sp : Space) (a : Nat) (bs : List Byte) (s : State) : (s.writeBytes sp a bs).valid = s.valid := by
  simp [State.writeBytes]
@[simp] theorem State.writeBytes_hdr (sp : Space) (a : Nat) (bs : List Byte) (s : State) : (s.writeBytes sp a bs).hdr = s.hdr := by
  simp [State.writeBytes]
@[simp] theorem State.writeBytes_bwCur (sp : Space) (a : Nat) (bs : List Byte) (s : State) : (s.writeBytes sp a bs).bwCur = s.bwCur := by
  simp [State.writeBytes]
@[simp] theorem State.writeBytes_bwCnt (sp : Space) (a : Nat) (bs : List Byte) (s : State) : (s.writeBytes sp a bs).bwCnt = s.bwCnt := by
  simp [State.writeBytes]
@[simp] theorem State.writeBytes_brPos (sp : Space) (a : Nat) (bs : List Byte) (s : State) : (s.writeBytes sp a bs).brPos = s.brPos := by
  simp [State.writeBytes]
@[simp] theorem State.writeBytes_reState (sp : Space) (a : Nat) (bs : List Byte) (s : State) : (s.writeBytes sp a bs).reState = s.reState := by
  simp [State.writeBytes]
@[simp] theorem State.writeBytes_rdState (sp : Space) (a : Nat) (bs : List Byte) (s : State) : (s.writeBytes sp a bs).rdState = s.rdState := by
  simp [State.writeBytes]
@[simp] theorem State.writeBytes_rdPtr (sp : Space) (a : Nat) (bs : List Byte) (s : State) : (s.writeBytes sp a bs).rdPtr = s.rdPtr := by
  simp [State.writeBytes]
@[simp] theorem State.writeBytes_lzP (sp : Space) (a : Nat) (bs : List Byte) (s : State) : (s.writeBytes sp a bs).lzP = s.lzP := by
  simp [State.writeBytes]
@[simp] theorem State.writeBytes_decMpos (sp : Space) (a : Nat) (bs : List Byte) (s : State) : (s.writeBytes sp a bs).decMpos = s.decMpos := by
  simp [State.writeBytes]
@[simp] theorem State.writeBytes_raw (sp : Space) (a : Nat) (bs : List Byte) (s : State) : (s.writeBytes sp a bs).raw = s.raw := by
  simp [State.writeBytes]
@[simp] theorem State.writeBytes_freqs (sp : Space) (a : Nat) (bs : List Byte) (s : State) : (s.writeBytes sp a bs).freqs = s.freqs := by
  simp [State.writeBytes]
@[simp] theorem State.writeBytes_cum (sp : Space) (a : Nat) (bs : List Byte) (s : State) : (s.writeBytes sp a bs).cum = s.cum := by
  simp [State.writeBytes]
@[simp] theorem State.writeBytes_bwFlushed (sp : Space) (a : Nat) (bs : List Byte) (s : State) : (s.writeBytes sp a bs).bwFlushed = s.bwFlushed := by
  simp [State.writeBytes]
@[simp] theorem State.writeBytes_epoch (sp : Space) (a : Nat) (bs : List Byte) (s : State) : (s.writeBytes sp a bs).epoch = s.epoch := by
  simp [State.writeBytes]
@[simp] theorem State.writeBytes_pending (sp : Space) (a : Nat) (bs : List Byte) (s : State) : (s.writeBytes sp a bs).pending = s.pending := by
  simp [State.writeBytes]
@[simp] theorem State.writeBytes_cfg (sp : Space) (a : Nat) (bs : List Byte) (s : State) : (s.writeBytes sp a bs).cfg = s.cfg := by
  simp [State.writeBytes]

@[simp] theorem State.load_cmd (sp : Space) (bs : List Byte) (s : State) : (s.load sp bs).cmd = s.cmd := by
  simp [State.load]
@[simp] theorem State.load_arg0 (sp : Space) (bs : List Byte) (s : State) : (s.load sp bs).arg0 = s.arg0 := by
  simp [State.load]
@[simp] theorem State.load_arg1 (sp : Space) (bs : List Byte) (s : State) : (s.load sp bs).arg1 = s.arg1 := by
  simp [State.load]
@[simp] theorem State.load_result (sp : Space) (bs : List Byte) (s : State) : (s.load sp bs).result = s.result := by
  simp [State.load]
@[simp] theorem State.load_status (sp : Space) (bs : List Byte) (s : State) : (s.load sp bs).status = s.status := by
  simp [State.load]
@[simp] theorem State.load_valid (sp : Space) (bs : List Byte) (s : State) : (s.load sp bs).valid = s.valid := by
  simp [State.load]
@[simp] theorem State.load_hdr (sp : Space) (bs : List Byte) (s : State) : (s.load sp bs).hdr = s.hdr := by
  simp [State.load]
@[simp] theorem State.load_bwCur (sp : Space) (bs : List Byte) (s : State) : (s.load sp bs).bwCur = s.bwCur := by
  simp [State.load]
@[simp] theorem State.load_bwCnt (sp : Space) (bs : List Byte) (s : State) : (s.load sp bs).bwCnt = s.bwCnt := by
  simp [State.load]
@[simp] theorem State.load_brPos (sp : Space) (bs : List Byte) (s : State) : (s.load sp bs).brPos = s.brPos := by
  simp [State.load]
@[simp] theorem State.load_reState (sp : Space) (bs : List Byte) (s : State) : (s.load sp bs).reState = s.reState := by
  simp [State.load]
@[simp] theorem State.load_rdState (sp : Space) (bs : List Byte) (s : State) : (s.load sp bs).rdState = s.rdState := by
  simp [State.load]
@[simp] theorem State.load_rdPtr (sp : Space) (bs : List Byte) (s : State) : (s.load sp bs).rdPtr = s.rdPtr := by
  simp [State.load]
@[simp] theorem State.load_lzP (sp : Space) (bs : List Byte) (s : State) : (s.load sp bs).lzP = s.lzP := by
  simp [State.load]
@[simp] theorem State.load_decMpos (sp : Space) (bs : List Byte) (s : State) : (s.load sp bs).decMpos = s.decMpos := by
  simp [State.load]
@[simp] theorem State.load_raw (sp : Space) (bs : List Byte) (s : State) : (s.load sp bs).raw = s.raw := by
  simp [State.load]
@[simp] theorem State.load_freqs (sp : Space) (bs : List Byte) (s : State) : (s.load sp bs).freqs = s.freqs := by
  simp [State.load]
@[simp] theorem State.load_cum (sp : Space) (bs : List Byte) (s : State) : (s.load sp bs).cum = s.cum := by
  simp [State.load]
@[simp] theorem State.load_bwFlushed (sp : Space) (bs : List Byte) (s : State) : (s.load sp bs).bwFlushed = s.bwFlushed := by
  simp [State.load]
@[simp] theorem State.load_epoch (sp : Space) (bs : List Byte) (s : State) : (s.load sp bs).epoch = s.epoch := by
  simp [State.load]
@[simp] theorem State.load_pending (sp : Space) (bs : List Byte) (s : State) : (s.load sp bs).pending = s.pending := by
  simp [State.load]
@[simp] theorem State.load_cfg (sp : Space) (bs : List Byte) (s : State) : (s.load sp bs).cfg = s.cfg := by
  simp [State.load]

@[simp] theorem State.setDone_buf (b : Bool) (s : State) (sp : Space) : (s.setDone b).buf sp = s.buf sp := by
  cases sp <;> simp [State.buf]
@[simp] theorem State.recordErr_buf (k : ErrKind) (s : State) (sp : Space) : (s.recordErr k).buf sp = s.buf sp := by
  cases sp <;> simp [State.buf]
@[simp] theorem State.setValid_buf (u : ValidBit) (s : State) (sp : Space) : (s.setValid u).buf sp = s.buf sp := by
  cases sp <;> simp [State.buf]
@[simp] theorem State.clearValid_buf (u : ValidBit) (s : State) (sp : Space) : (s.clearValid u).buf sp = s.buf sp := by
  cases sp <;> simp [State.buf]
@[simp] theorem State.issue_buf (v : Word) (s : State) (sp : Space) : (s.issue v).buf sp = s.buf sp := by
  cases sp <;> simp [State.buf]
@[simp] theorem State.takeFault_buf (k : ErrKind) (s : State) (sp : Space) : (s.takeFault k).buf sp = s.buf sp := by
  cases sp <;> simp [State.buf]
@[simp] theorem State.takeRefusal_buf (s : State) (sp : Space) : (s.takeRefusal).buf sp = s.buf sp := by
  cases sp <;> simp [State.buf]

/-- A buffer read back after a buffer is put. -/
theorem State.setBuf_buf (sp sp' : Space) (b : Buf) (s : State) :
    (s.setBuf sp b).buf sp' = if sp' = sp then b else s.buf sp' := by
  cases sp <;> cases sp' <;> rfl

@[simp] theorem State.setBuf_buf_same (sp : Space) (b : Buf) (s : State) : (s.setBuf sp b).buf sp = b := by
  simp [State.setBuf_buf]

@[simp] theorem State.setBuf_buf_ne {sp sp' : Space} (h : sp' ≠ sp) (b : Buf) (s : State) :
    (s.setBuf sp b).buf sp' = s.buf sp' := by
  simp [State.setBuf_buf, h]

/-- States with the same buffer have the same length register there. -/
theorem State.len_congr {s t : State} {sp : Space} (h : s.buf sp = t.buf sp) : s.len sp = t.len sp := by
  simp [State.len, h]

/-- States with the same buffer read the same bytes there. -/
theorem State.byte_congr {s t : State} {sp : Space} (h : s.buf sp = t.buf sp) (a : Nat) : s.byte sp a = t.byte sp a := by
  simp [State.byte, h]

/-- States with the same buffer read the same ranges there. -/
theorem State.bytes_congr {s t : State} {sp : Space} (h : s.buf sp = t.buf sp) (a n : Nat) :
    s.bytes sp a n = t.bytes sp a n := by
  simp [State.bytes, State.byte_congr h]

@[simp] theorem State.bytes_length (s : State) (sp : Space) (a n : Nat) : (s.bytes sp a n).length = n := by
  simp [State.bytes]

theorem State.bytes_getElem (s : State) (sp : Space) (a n k : Nat) (h : k < (s.bytes sp a n).length) :
    (s.bytes sp a n)[k] = s.byte sp (a + k) := by
  simp [State.bytes]

@[simp] theorem State.setDone_len (b : Bool) (s : State) (sp : Space) : (s.setDone b).len sp = s.len sp :=
  State.len_congr (by simp)
@[simp] theorem State.setDone_byte (b : Bool) (s : State) (sp : Space) (a : Nat) : (s.setDone b).byte sp a = s.byte sp a :=
  State.byte_congr (by simp) a
@[simp] theorem State.recordErr_len (k : ErrKind) (s : State) (sp : Space) : (s.recordErr k).len sp = s.len sp :=
  State.len_congr (by simp)
@[simp] theorem State.recordErr_byte (k : ErrKind) (s : State) (sp : Space) (a : Nat) : (s.recordErr k).byte sp a = s.byte sp a :=
  State.byte_congr (by simp) a
@[simp] theorem State.setValid_len (u : ValidBit) (s : State) (sp : Space) : (s.setValid u).len sp = s.len sp :=
  State.len_congr (by simp)
@[simp] theorem State.setValid_byte (u : ValidBit) (s : State) (sp : Space) (a : Nat) : (s.setValid u).byte sp a = s.byte sp a :=
  State.byte_congr (by simp) a
@[simp] theorem State.clearValid_len (u : ValidBit) (s : State) (sp : Space) : (s.clearValid u).len sp = s.len sp :=
  State.len_congr (by simp)
@[simp] theorem State.clearValid_byte (u : ValidBit) (s : State) (sp : Space) (a : Nat) : (s.clearValid u).byte sp a = s.byte sp a :=
  State.byte_congr (by simp) a
@[simp] theorem State.issue_len (v : Word) (s : State) (sp : Space) : (s.issue v).len sp = s.len sp :=
  State.len_congr (by simp)
@[simp] theorem State.issue_byte (v : Word) (s : State) (sp : Space) (a : Nat) : (s.issue v).byte sp a = s.byte sp a :=
  State.byte_congr (by simp) a
@[simp] theorem State.takeFault_len (k : ErrKind) (s : State) (sp : Space) : (s.takeFault k).len sp = s.len sp :=
  State.len_congr (by simp)
@[simp] theorem State.takeFault_byte (k : ErrKind) (s : State) (sp : Space) (a : Nat) : (s.takeFault k).byte sp a = s.byte sp a :=
  State.byte_congr (by simp) a
@[simp] theorem State.takeRefusal_len (s : State) (sp : Space) : (s.takeRefusal).len sp = s.len sp :=
  State.len_congr (by simp)
@[simp] theorem State.takeRefusal_byte (s : State) (sp : Space) (a : Nat) : (s.takeRefusal).byte sp a = s.byte sp a :=
  State.byte_congr (by simp) a

@[simp] theorem State.setLen_len_same (sp : Space) (n : Word) (s : State) : (s.setLen sp n).len sp = n.toNat := by
  simp [State.setLen, State.len]

@[simp] theorem State.setLen_len_ne {sp sp' : Space} (h : sp' ≠ sp) (n : Word) (s : State) :
    (s.setLen sp n).len sp' = s.len sp' := by
  simp [State.setLen, State.len, h]

@[simp] theorem State.setLen_byte (sp sp' : Space) (n : Word) (s : State) (a : Nat) :
    (s.setLen sp n).byte sp' a = s.byte sp' a := by
  by_cases h : sp' = sp
  · subst h; simp [State.setLen, State.byte]
  · simp [State.setLen, State.byte, h]

@[simp] theorem State.writeBytes_len (sp sp' : Space) (a : Nat) (bs : List Byte) (s : State) :
    (s.writeBytes sp a bs).len sp' = s.len sp' := by
  by_cases h : sp' = sp
  · subst h; simp [State.writeBytes, State.len]
  · simp [State.writeBytes, State.len, h]

@[simp] theorem State.writeBytes_byte_ne {sp sp' : Space} (h : sp' ≠ sp) (a : Nat) (bs : List Byte) (s : State) (x : Nat) :
    (s.writeBytes sp a bs).byte sp' x = s.byte sp' x := by
  simp [State.writeBytes, State.byte, h]

@[simp] theorem State.load_len_same (sp : Space) (bs : List Byte) (s : State) :
    (s.load sp bs).len sp = bs.length % 2 ^ 32 := by
  simp [State.load]

@[simp] theorem State.load_len_ne {sp sp' : Space} (h : sp' ≠ sp) (bs : List Byte) (s : State) :
    (s.load sp bs).len sp' = s.len sp' := by
  simp [State.load, h]

@[simp] theorem State.load_byte_ne {sp sp' : Space} (h : sp' ≠ sp) (bs : List Byte) (s : State) (x : Nat) :
    (s.load sp bs).byte sp' x = s.byte sp' x := by
  simp [State.load, h]

end Sys2Proof.Machine
end

