-- ==== Sys2Proof/Laws/Flags.lean ====
section
/-! SUPPORT. What the updates of `STATUS` and `VALID` leave in their fields (spec 10_state R24, R25). -/

namespace Sys2Proof.Machine

theorem mkStatus_fields : ∀ (e : BitVec 4) (d : Bool),
    (mkStatus e d).extractLsb' 4 4 = e ∧ (mkStatus e d).getLsbD 0 = d ∧ (mkStatus e d).extractLsb' 1 3 = 0#3 := by
  decide

@[simp] theorem State.setDone_err (b : Bool) (s : State) : (s.setDone b).err = s.err :=
  (mkStatus_fields s.err b).1

@[simp] theorem State.setDone_done (b : Bool) (s : State) : (s.setDone b).done = b :=
  (mkStatus_fields s.err b).2.1

@[simp] theorem State.setDone_status (b : Bool) (s : State) : (s.setDone b).status = mkStatus s.err b := rfl

@[simp] theorem State.recordErr_done (k : ErrKind) (s : State) : (s.recordErr k).done = s.done := by
  unfold State.recordErr
  split
  · exact (mkStatus_fields k.code s.done).2.1
  · rfl

/-- The first code sticks (10_state R24). -/
theorem State.recordErr_err (k : ErrKind) (s : State) :
    (s.recordErr k).err = if s.err = 0#4 then k.code else s.err := by
  unfold State.recordErr
  split
  · exact (mkStatus_fields k.code s.done).1
  · rfl

/-- Taking a fault writes `ERR` and `DONE` (60_exceptions R272). -/
theorem State.takeFault_status (k : ErrKind) (s : State) :
    (s.takeFault k).status = mkStatus (if s.err = 0#4 then k.code else s.err) true := by
  simp [State.takeFault, State.recordErr_err]

/-- Taking a refusal writes `ERR` and `DONE` (60_exceptions R270). -/
theorem State.takeRefusal_status (s : State) :
    s.takeRefusal.status = mkStatus (if s.err = 0#4 then ErrKind.notReady.code else s.err) true := by
  simp [State.takeRefusal, State.recordErr_err]

/-- A refusal changes `STATUS` and nothing else (00_scope R11). -/
theorem State.takeRefusal_eq (s : State) :
    s.takeRefusal = { s with status := mkStatus (if s.err = 0#4 then ErrKind.notReady.code else s.err) true } := by
  unfold State.takeRefusal State.setDone
  rw [State.recordErr_err]
  unfold State.recordErr
  split <;> rfl

/-- No kind has the code 0. -/
theorem ErrKind.code_ne_zero : ∀ k : ErrKind, k.code ≠ 0#4 := by
  intro k; cases k <;> decide

/-- Setting one valid bit leaves the others. -/
theorem State.setValid_isValid (u v : ValidBit) (s : State) :
    (s.setValid u).isValid v = (decide (u = v) || s.isValid v) := by
  cases u <;> cases v <;> simp [State.isValid, State.setValid, ValidBit.index]

/-- Clearing one valid bit leaves the others. -/
theorem State.clearValid_isValid (u v : ValidBit) (s : State) :
    (s.clearValid u).isValid v = (!decide (u = v) && s.isValid v) := by
  cases u <;> cases v <;> simp [State.isValid, State.clearValid, ValidBit.index]

/-- Bit 7 of `VALID` is reserved: no update of a valid bit touches it (10_state R25). -/
theorem State.setValid_reserved (u : ValidBit) (s : State) : (s.setValid u).valid.getLsbD 7 = s.valid.getLsbD 7 := by
  cases u <;> simp [State.setValid, ValidBit.index]

theorem State.clearValid_reserved (u : ValidBit) (s : State) : (s.clearValid u).valid.getLsbD 7 = s.valid.getLsbD 7 := by
  cases u <;> simp [State.clearValid, ValidBit.index]

end Sys2Proof.Machine
end

