-- ==== Sys2Proof/Laws/Memory.lean ====
section
/-! SUPPORT. Reading a memory after writing it, and that every memory operation keeps the canonical form. -/

namespace Sys2Proof.Machine

/-- A read after a write to the same address gives the byte written. -/
theorem Memory.get?_set_same (m : Memory) (a : Nat) (b : Byte) : (m.set a b).get? a = some b := by
  induction m with
  | nil => simp [Memory.set, Memory.get?]
  | cons c rest ih =>
    obtain ⟨k, v⟩ := c
    simp only [Memory.set]
    split
    · simp [Memory.get?]
    · split
      · simp [Memory.get?]
      · rename_i h; simp [Memory.get?, h, ih]

/-- A write leaves every other address alone. -/
theorem Memory.get?_set_ne (m : Memory) {a x : Nat} (h : x ≠ a) (b : Byte) : (m.set a b).get? x = m.get? x := by
  induction m with
  | nil => simp [Memory.set, Memory.get?, Ne.symm h]
  | cons c rest ih =>
    obtain ⟨k, v⟩ := c
    simp only [Memory.set]
    split
    · simp [Memory.get?, Ne.symm h]
    · split
      · rename_i hk; subst hk; simp [Memory.get?, Ne.symm h]
      · simp [Memory.get?, ih]

/-- A read after writing a list: the bytes of the list where they went, the old bytes elsewhere. -/
theorem Memory.get?_setList (bs : List Byte) (m : Memory) (a x : Nat) :
    (m.setList a bs).get? x = if a ≤ x ∧ x < a + bs.length then bs[x - a]? else m.get? x := by
  induction bs generalizing m a with
  | nil =>
    have : ¬(a ≤ x ∧ x < a + 0) := by omega
    simp only [Memory.setList, List.length_nil, this, if_false]
  | cons b bs ih =>
    rw [Memory.setList, ih]
    simp only [List.length_cons]
    by_cases hx : x = a
    · subst hx
      have h1 : ¬(x + 1 ≤ x ∧ x < x + 1 + bs.length) := by omega
      have h2 : x ≤ x ∧ x < x + (bs.length + 1) := by omega
      simp only [h1, h2, if_false, Memory.get?_set_same]
      simp
    · by_cases hr : a + 1 ≤ x ∧ x < a + 1 + bs.length
      · have h2 : a ≤ x ∧ x < a + (bs.length + 1) := by omega
        have h3 : x - a = (x - (a + 1)) + 1 := by omega
        simp only [hr, h2, h3]
        simp
      · have h2 : ¬(a ≤ x ∧ x < a + (bs.length + 1)) := by omega
        simp only [hr, h2, if_false, Memory.get?_set_ne _ hx]

/-- The canonical form as a statement about neighbours. -/
theorem Memory.wf_cons (c : Host.Cell) (m : Memory) :
    Memory.wf (c :: m) = true ↔ (∀ d ∈ m.head?, c.1 < d.1) ∧ Memory.wf m = true := by
  cases m with
  | nil => simp [Memory.wf]
  | cons d rest => simp [Memory.wf]

theorem Memory.head?_set (m : Memory) (a : Nat) (b : Byte) (k : Nat) (hk : k < a)
    (hm : ∀ d ∈ m.head?, k < d.1) : ∀ d ∈ (m.set a b).head?, k < d.1 := by
  cases m with
  | nil => simp [Memory.set, hk]
  | cons c rest =>
    obtain ⟨x, v⟩ := c
    simp only [List.head?_cons, Option.mem_some_iff, forall_eq'] at hm
    simp only [Memory.set]
    split
    · simpa using hk
    · split <;> simp_all

/-- A write keeps the canonical form. -/
theorem Memory.set_wf (m : Memory) (a : Nat) (b : Byte) (h : m.wf = true) : (m.set a b).wf = true := by
  induction m with
  | nil => rfl
  | cons c rest ih =>
    obtain ⟨k, v⟩ := c
    have hc := (Memory.wf_cons _ _).mp h
    simp only [Memory.set]
    split
    · rename_i hlt
      exact (Memory.wf_cons _ _).mpr ⟨by simpa using hlt, h⟩
    · split
      · rename_i hk
        subst hk
        exact (Memory.wf_cons _ _).mpr ⟨hc.1, hc.2⟩
      · have hlt : k < a := by omega
        exact (Memory.wf_cons _ _).mpr ⟨Memory.head?_set rest a b k hlt hc.1, ih hc.2⟩

/-- Writing a list keeps the canonical form. -/
theorem Memory.setList_wf (bs : List Byte) (m : Memory) (a : Nat) (h : m.wf = true) : (m.setList a bs).wf = true := by
  induction bs generalizing m a with
  | nil => exact h
  | cons b bs ih => exact ih _ _ (Memory.set_wf m a b h)

/-- Every update of a buffer keeps the canonical form of every buffer. -/
theorem State.setBuf_wf (sp : Space) (b : Buf) (s : State) (hb : b.mem.wf = true)
    (h : ∀ x, (s.buf x).mem.wf = true) (x : Space) : ((s.setBuf sp b).buf x).mem.wf = true := by
  rw [State.setBuf_buf]
  split
  · exact hb
  · exact h x

theorem State.setLen_wf (sp : Space) (n : Word) (s : State) (h : ∀ x, (s.buf x).mem.wf = true) (x : Space) :
    ((s.setLen sp n).buf x).mem.wf = true :=
  State.setBuf_wf sp { s.buf sp with len := n } s (h sp) h x

theorem State.writeBytes_wf (sp : Space) (a : Nat) (bs : List Byte) (s : State)
    (h : ∀ x, (s.buf x).mem.wf = true) (x : Space) : ((s.writeBytes sp a bs).buf x).mem.wf = true :=
  State.setBuf_wf sp { s.buf sp with mem := (s.buf sp).mem.setList a bs } s (Memory.setList_wf bs _ a (h sp)) h x

theorem State.load_wf (sp : Space) (bs : List Byte) (s : State) (h : ∀ x, (s.buf x).mem.wf = true) (x : Space) :
    ((s.load sp bs).buf x).mem.wf = true :=
  State.setLen_wf sp _ _ (State.writeBytes_wf sp 0 bs s h) x

theorem State.wipe_wf (c : Config) (keep : Space → Bool) (s : State) (h : ∀ x, (s.buf x).mem.wf = true) (x : Space) :
    ((s.wipe c keep).buf x).mem.wf = true := by
  have key : ∀ y, ((if keep y then s.buf y else Buf.fresh (s.epoch + 1)).mem).wf = true := by
    intro y
    split
    · exact h y
    · rfl
  cases x <;> exact key _

theorem State.resetAll_wf (c : Config) (s : State) (h : ∀ x, (s.buf x).mem.wf = true) (x : Space) :
    ((s.resetAll c).buf x).mem.wf = true := by
  have := State.wipe_wf c (fun _ => false) s h x
  cases x <;> exact this

/-- The state after reset lists no cell. -/
theorem State.reset_wf (x : Space) : (State.reset.buf x).mem.wf = true := by
  cases x <;> rfl

/-- What a state reads after a write of a list: the bytes written where they went, the old bytes elsewhere. -/
theorem State.writeBytes_byte_same (sp : Space) (a : Nat) (bs : List Byte) (s : State) (x : Nat) :
    (s.writeBytes sp a bs).byte sp x = if h : a ≤ x ∧ x < a + bs.length then bs[x - a]'(by omega) else s.byte sp x := by
  unfold State.byte State.writeBytes
  rw [State.setBuf_buf_same]
  simp only [Memory.get?_setList]
  by_cases h : a ≤ x ∧ x < a + bs.length
  · have hx : x - a < bs.length := by omega
    simp [h, List.getElem?_eq_getElem hx]
  · simp [h]

theorem State.load_byte_same (sp : Space) (bs : List Byte) (s : State) (x : Nat) :
    (s.load sp bs).byte sp x = if h : x < bs.length then bs[x] else s.byte sp x := by
  unfold State.load
  rw [State.setLen_byte, State.writeBytes_byte_same]
  by_cases h : x < bs.length <;> simp [h]

end Sys2Proof.Machine
end

