-- ==== Sys2Proof/Laws/Ops.lean ====
section
/-! SUPPORT. What the shared operations can do: going on after a unit operation, the checks at the start of a command, appending,
ending a command. -/

namespace Sys2Proof.Machine

@[simp] theorem Res.bind_ok {α β : Type} (a : α) (s : State) (f : α → State → Res β) : (Res.ok a s).bind f = f a s := rfl
@[simp] theorem Res.bind_raised {α β : Type} (k : ErrKind) (s : State) (f : α → State → Res β) :
    (Res.raised k s).bind f = .raised k s := rfl
@[simp] theorem Res.bind_refused {α β : Type} (f : α → State → Res β) : (Res.refused : Res α).bind f = .refused := rfl

/-- A sequence ended `ok` when both parts did. -/
theorem Res.bind_eq_ok {α β : Type} {r : Res α} {f : α → State → Res β} {b : β} {t : State} :
    r.bind f = .ok b t ↔ ∃ a s, r = .ok a s ∧ f a s = .ok b t := by
  cases r <;> simp

/-- A property of the state an operation ends in, whichever way it ends; a refusal leaves the state the command started in. -/
def Res.All {α : Type} (P : State → Prop) : Res α → Prop
  | .ok _ s => P s
  | .raised _ s => P s
  | .refused => True

@[simp] theorem Res.all_ok {α : Type} (P : State → Prop) (a : α) (s : State) : (Res.ok a s).All P ↔ P s := Iff.rfl
@[simp] theorem Res.all_raised {α : Type} (P : State → Prop) (k : ErrKind) (s : State) :
    (Res.raised k s : Res α).All P ↔ P s := Iff.rfl
@[simp] theorem Res.all_refused {α : Type} (P : State → Prop) : (Res.refused : Res α).All P := trivial

/-- A property kept by each part of a sequence is kept by the sequence. -/
theorem Res.bind_all {α β : Type} {P : State → Prop} {r : Res α} {f : α → State → Res β} (hr : r.All P)
    (hf : ∀ a s, P s → (f a s).All P) : (r.bind f).All P := by
  cases r with
  | ok a s => exact hf a s hr
  | raised k s => exact hr
  | refused => trivial

/-- The checks let a command through when the precondition holds and every input buffer fits (60_exceptions R274). -/
theorem checked_pass {α : Type} {c : Config} {pre : Bool} {inputs : List Space} {s : State} {go : Unit → Res α} (hp : pre = true)
    (hf : ∀ sp ∈ inputs, s.len sp ≤ capacity c sp) : checked c pre inputs s go = go () := by
  have : inputs.any (fun sp => decide (capacity c sp < s.len sp)) = false := by
    simp only [List.any_eq_false, decide_eq_true_eq, not_lt]
    exact hf
  simp [checked, hp, this]

/-- A failed precondition refuses. -/
theorem checked_refuses {α : Type} {c : Config} {pre : Bool} {inputs : List Space} {s : State} {go : Unit → Res α}
    (hp : pre = false) : checked c pre inputs s go = .refused := by
  simp [checked, hp]

/-- An input buffer longer than its capacity raises `SizeOverflow` (60_exceptions R268). -/
theorem checked_overflows {α : Type} {c : Config} {pre : Bool} {inputs : List Space} {s : State} {go : Unit → Res α}
    (hp : pre = true) (hf : ∃ sp ∈ inputs, capacity c sp < s.len sp) :
    checked c pre inputs s go = .raised .sizeOverflow s := by
  have : inputs.any (fun sp => decide (capacity c sp < s.len sp)) = true := by simpa using hf
  simp [checked, hp, this]

/-- Everything the checks can do. -/
theorem checked_cases {α : Type} (c : Config) (pre : Bool) (inputs : List Space) (s : State) (go : Unit → Res α) :
    checked c pre inputs s go = .refused ∨ checked c pre inputs s go = .raised .sizeOverflow s ∨
      (pre = true ∧ (∀ sp ∈ inputs, s.len sp ≤ capacity c sp) ∧ checked c pre inputs s go = go ()) := by
  by_cases hp : pre = true
  · by_cases hf : ∀ sp ∈ inputs, s.len sp ≤ capacity c sp
    · exact .inr (.inr ⟨hp, hf, checked_pass hp hf⟩)
    · exact .inr (.inl (checked_overflows hp (by simpa using hf)))
  · exact .inl (checked_refuses (by simpa using hp))

theorem checked_all {α : Type} {P : State → Prop} {c : Config} {pre : Bool} {inputs : List Space} {s : State} {go : Unit → Res α}
    (hs : P s) (hg : (go ()).All P) : (checked c pre inputs s go).All P := by
  rcases checked_cases c pre inputs s go with h | h | ⟨-, -, h⟩ <;> rw [h]
  · trivial
  · exact hs
  · exact hg

/-- No capacity reaches `2^32`, so no length register wraps (00_scope R8). -/
theorem capacity_lt {c : Config} (h : c.Bounded) (sp : Space) : capacity c sp < 2 ^ 32 := by
  have := h.2
  cases sp <;> simp only [capacity, ceilDiv8, headerSize, modelSize] <;> omega

/-- An append below the capacity. -/
theorem append_ok {c : Config} {sp : Space} {s : State} (b : Byte) (h : s.len sp < capacity c sp) :
    append c sp b s = .ok () ((s.writeBytes sp (s.len sp) [b]).setLen sp ((s.buf sp).len + 1#32)) := by
  simp [append, h]

/-- An append at the capacity is refused (20_memory R70). -/
theorem append_full {c : Config} {sp : Space} {s : State} (b : Byte) (h : capacity c sp ≤ s.len sp) :
    append c sp b s = .refused := by
  have : ¬ s.len sp < capacity c sp := by omega
  simp [append, this]

/-- Everything an accepted append does to the buffers. -/
theorem append_spec {c : Config} (hc : c.Bounded) {sp : Space} {b : Byte} {s t : State} (h : append c sp b s = .ok () t) :
    s.len sp < capacity c sp ∧ t.len sp = s.len sp + 1 ∧ t.byte sp (s.len sp) = b ∧
      (∀ a, a ≠ s.len sp → t.byte sp a = s.byte sp a) ∧
      (∀ x, x ≠ sp → t.len x = s.len x ∧ ∀ a, t.byte x a = s.byte x a) := by
  by_cases hl : s.len sp < capacity c sp
  · rw [append_ok b hl] at h
    cases h
    have hw := capacity_lt hc sp
    refine ⟨hl, ?_, ?_, ?_, ?_⟩
    · have hlen : s.len sp = (s.buf sp).len.toNat := rfl
      rw [State.setLen_len_same, BitVec.toNat_add, hlen]
      exact Nat.mod_eq_of_lt (by simp; omega)
    · simp [State.writeBytes_byte_same]
    · intro a ha
      have : ¬(s.len sp ≤ a ∧ a < s.len sp + [b].length) := by simp; omega
      simp only [State.setLen_byte, State.writeBytes_byte_same, this, dif_neg, not_false_eq_true]
    · intro x hx
      simp [hx]
  · rw [append_full b (by omega)] at h
    cases h

theorem append_all {P : State → Prop} {c : Config} {sp : Space} {b : Byte} {s : State}
    (h : P ((s.writeBytes sp (s.len sp) [b]).setLen sp ((s.buf sp).len + 1#32))) : (append c sp b s).All P := by
  unfold append
  split
  · exact h
  · trivial

/-- A command always answers a next state (00_scope R11). -/
theorem command_next (body : State → Res Unit) (s : State) : ∃ t, command body s = .next t := ⟨_, rfl⟩

/-- While `STATUS.ERR` is not 0 a command only sets `DONE` (10_state R24). -/
theorem command_sticky (body : State → Res Unit) {s : State} (h : s.err ≠ 0#4) :
    command body s = .next (s.setDone true) := by
  simp [command, h, State.takeRefusal, State.recordErr]

/-- A command whose body ends `ok`. -/
theorem command_ok {body : State → Res Unit} {s t : State} {u : Unit} (h : s.err = 0#4) (hb : body s = .ok u t) :
    command body s = .next (t.setDone true) := by
  simp [command, h, hb, finish]

/-- A command whose body raises a fault. -/
theorem command_raised {body : State → Res Unit} {s t : State} {k : ErrKind} (h : s.err = 0#4)
    (hb : body s = .raised k t) : command body s = .next (t.takeFault k) := by
  simp [command, h, hb, finish]

/-- A command whose body refuses. -/
theorem command_refused {body : State → Res Unit} {s : State} (h : s.err = 0#4) (hb : body s = .refused) :
    command body s = .next s.takeRefusal := by
  simp [command, h, hb, finish]

/-- A property that does not look at `STATUS` and that the body keeps is kept by the command. -/
theorem command_keeps {P : State → Prop} (hst : ∀ s v, P s → P { s with status := v }) {body : State → Res Unit} {s t : State}
    (hs : P s) (hb : (body s).All P) (h : command body s = .next t) : P t := by
  have hdone : ∀ s, P s → P (s.setDone true) := fun s hs => hst s _ hs
  have hrec : ∀ k s, P s → P (s.recordErr k) := by
    intro k s hs
    unfold State.recordErr
    split
    · exact hst s _ hs
    · exact hs
  have href : P s.takeRefusal := hdone _ (hrec _ _ hs)
  unfold command at h
  split at h
  · cases hbs : body s with
    | ok u r => rw [hbs] at h hb; cases h; exact hdone _ hb
    | raised k r => rw [hbs] at h hb; cases h; exact hdone _ (hrec _ _ hb)
    | refused => rw [hbs] at h; cases h; exact href
  · cases h; exact href

/-- The entries of a tabulated vector. -/
theorem tabulate_getElem? {α : Type} (n : Nat) (f : Nat → α) (i : Nat) :
    (tabulate n f)[i]? = if i < n then some (f i) else none := by
  unfold tabulate
  by_cases h : i < n
  · rw [if_pos h]
    simp [h]
  · rw [if_neg h]
    simp [h]

end Sys2Proof.Machine
end

