-- ==== Sys2Proof/Laws/Operands.lean ====
section
/-! SUPPORT. The value of a multi-byte field, the bytes of a value, and the token at the decoder's cursor. -/

namespace Sys2Proof.Machine

/-- The value of a 16-bit field (00_scope R13). -/
theorem le16_toNat (b0 b1 : Byte) : (le16 b0 b1).toNat = b0.toNat + 256 * b1.toNat := by
  have h0 := b0.isLt
  rw [le16, BitVec.toNat_append, Nat.shiftLeft_eq, Nat.mul_comm, ← Nat.two_pow_add_eq_or_of_lt h0]
  omega

/-- The value of a 32-bit field (00_scope R13). -/
theorem le32_toNat (b0 b1 b2 b3 : Byte) :
    (le32 b0 b1 b2 b3).toNat = b0.toNat + 2 ^ 8 * b1.toNat + 2 ^ 16 * b2.toNat + 2 ^ 24 * b3.toNat := by
  have h0 := b0.isLt
  have h1 := b1.isLt
  have h2 := b2.isLt
  simp only [le32, BitVec.toNat_append, Nat.shiftLeft_eq]
  rw [Nat.mul_comm b3.toNat, ← Nat.two_pow_add_eq_or_of_lt h2, Nat.mul_comm (_ + _), ← Nat.two_pow_add_eq_or_of_lt h1,
    Nat.mul_comm (_ + _), ← Nat.two_pow_add_eq_or_of_lt h0]
  omega

theorem byte_of_half (v : Half) (k : Nat) : (v.extractLsb' k 8).toNat = v.toNat / 2 ^ k % 256 := by
  simp [BitVec.extractLsb'_toNat, Nat.shiftRight_eq_div_pow]

theorem byte_of_word (v : Word) (k : Nat) : (v.extractLsb' k 8).toNat = v.toNat / 2 ^ k % 256 := by
  simp [BitVec.extractLsb'_toNat, Nat.shiftRight_eq_div_pow]

/-- A 16-bit value is read back from its bytes. -/
theorem le16_bytesLe16 (v : Half) : le16 (v.extractLsb' 0 8) (v.extractLsb' 8 8) = v := by
  apply BitVec.eq_of_toNat_eq
  have := v.isLt
  rw [le16_toNat, byte_of_half, byte_of_half]
  omega

/-- A 32-bit value is read back from its bytes. -/
theorem le32_bytesLe32 (v : Word) :
    le32 (v.extractLsb' 0 8) (v.extractLsb' 8 8) (v.extractLsb' 16 8) (v.extractLsb' 24 8) = v := by
  apply BitVec.eq_of_toNat_eq
  have := v.isLt
  rw [le32_toNat, byte_of_word, byte_of_word, byte_of_word, byte_of_word]
  omega

@[simp] theorem bytesLe16_length (v : Half) : (bytesLe16 v).length = 2 := rfl
@[simp] theorem bytesLe32_length (v : Word) : (bytesLe32 v).length = 4 := rfl

/-- The 32-bit field at an address, as a number. -/
theorem State.field32_toNat (s : State) (sp : Space) (a : Nat) : (s.field32 sp a).toNat = s.number32 sp a :=
  le32_toNat _ _ _ _

/-- A field of the model region, as a number. -/
theorem State.field16_toNat (s : State) (sp : Space) (a : Nat) :
    (s.field16 sp a).toNat = (s.byte sp a).toNat + 256 * (s.byte sp (a + 1)).toNat := le16_toNat _ _

/-- `RE.PUT` reads the low byte of `ARG0`. -/
theorem State.argSymbol_eq (s : State) : s.argSymbol = BitVec.ofNat 8 s.arg0.toNat := by
  apply BitVec.eq_of_toNat_eq
  rw [State.argSymbol, byte_of_word]
  simp

/-- The flag bit at `BR.pos` is that bit of `FLAGS` (30_encoding R96). -/
theorem State.flagHere_eq (s : State) : s.flagHere = s.flagsBit s.brPos.toNat := by
  unfold State.flagHere State.flagsBit flagBit
  split <;> simp_all

/-- With three bytes left in `MATCH` the record is those three. -/
theorem State.recordHere_full {s : State} (h : s.decMpos.toNat + 3 ≤ s.len .mtch) :
    s.recordHere = [s.byte .mtch s.decMpos.toNat, s.byte .mtch (s.decMpos.toNat + 1), s.byte .mtch (s.decMpos.toNat + 2)] := by
  have : min 3 (s.len .mtch - s.decMpos.toNat) = 3 := by omega
  simp [State.recordHere, State.bytes, this, List.range_succ]

/-- With fewer than three bytes left a flag 1 announces no record (30_encoding R103). -/
theorem State.recordHere_short {s : State} (h : s.len .mtch < s.decMpos.toNat + 3) :
    decodeToken true s.recordHere = .error .matchUnderflow := by
  have hl : s.recordHere.length < 3 := by simp [State.recordHere]; omega
  match hs : s.recordHere, hl with
  | [], _ => rfl
  | [_], _ => rfl
  | [_, _], _ => rfl

/-- The token at a flag bit 1 with a whole record. -/
theorem State.decode_match {s : State} (h : s.decMpos.toNat + 3 ≤ s.len .mtch) :
    decodeToken true s.recordHere =
      .ok (.mtch (le16 (s.byte .mtch s.decMpos.toNat) (s.byte .mtch (s.decMpos.toNat + 1)))
        (s.byte .mtch (s.decMpos.toNat + 2)), []) := by
  rw [State.recordHere_full h]
  rfl

end Sys2Proof.Machine
end

