-- ==== Sys2Proof/Laws/Updates.lean ====
section
/-! SUPPORT. One lemma per field for each named update of a unit's registers; none of them touches a buffer. -/

namespace Sys2Proof.Machine

@[simp] theorem State.setWriter_cmd (cur : Byte) (cnt : BitVec 3) (s : State) : (s.setWriter cur cnt).cmd = s.cmd := rfl
@[simp] theorem State.setWriter_arg0 (cur : Byte) (cnt : BitVec 3) (s : State) : (s.setWriter cur cnt).arg0 = s.arg0 := rfl
@[simp] theorem State.setWriter_arg1 (cur : Byte) (cnt : BitVec 3) (s : State) : (s.setWriter cur cnt).arg1 = s.arg1 := rfl
@[simp] theorem State.setWriter_result (cur : Byte) (cnt : BitVec 3) (s : State) : (s.setWriter cur cnt).result = s.result := rfl
@[simp] theorem State.setWriter_status (cur : Byte) (cnt : BitVec 3) (s : State) : (s.setWriter cur cnt).status = s.status := rfl
@[simp] theorem State.setWriter_valid (cur : Byte) (cnt : BitVec 3) (s : State) : (s.setWriter cur cnt).valid = s.valid := rfl
@[simp] theorem State.setWriter_hdr (cur : Byte) (cnt : BitVec 3) (s : State) : (s.setWriter cur cnt).hdr = s.hdr := rfl
@[simp] theorem State.setWriter_bwCur (cur : Byte) (cnt : BitVec 3) (s : State) : (s.setWriter cur cnt).bwCur = cur := rfl
@[simp] theorem State.setWriter_bwCnt (cur : Byte) (cnt : BitVec 3) (s : State) : (s.setWriter cur cnt).bwCnt = cnt := rfl
@[simp] theorem State.setWriter_brPos (cur : Byte) (cnt : BitVec 3) (s : State) : (s.setWriter cur cnt).brPos = s.brPos := rfl
@[simp] theorem State.setWriter_reState (cur : Byte) (cnt : BitVec 3) (s : State) : (s.setWriter cur cnt).reState = s.reState := rfl
@[simp] theorem State.setWriter_rdState (cur : Byte) (cnt : BitVec 3) (s : State) : (s.setWriter cur cnt).rdState = s.rdState := rfl
@[simp] theorem State.setWriter_rdPtr (cur : Byte) (cnt : BitVec 3) (s : State) : (s.setWriter cur cnt).rdPtr = s.rdPtr := rfl
@[simp] theorem State.setWriter_lzP (cur : Byte) (cnt : BitVec 3) (s : State) : (s.setWriter cur cnt).lzP = s.lzP := rfl
@[simp] theorem State.setWriter_decMpos (cur : Byte) (cnt : BitVec 3) (s : State) : (s.setWriter cur cnt).decMpos = s.decMpos := rfl
@[simp] theorem State.setWriter_raw (cur : Byte) (cnt : BitVec 3) (s : State) : (s.setWriter cur cnt).raw = s.raw := rfl
@[simp] theorem State.setWriter_freqs (cur : Byte) (cnt : BitVec 3) (s : State) : (s.setWriter cur cnt).freqs = s.freqs := rfl
@[simp] theorem State.setWriter_cum (cur : Byte) (cnt : BitVec 3) (s : State) : (s.setWriter cur cnt).cum = s.cum := rfl
@[simp] theorem State.setWriter_inp (cur : Byte) (cnt : BitVec 3) (s : State) : (s.setWriter cur cnt).inp = s.inp := rfl
@[simp] theorem State.setWriter_lit (cur : Byte) (cnt : BitVec 3) (s : State) : (s.setWriter cur cnt).lit = s.lit := rfl
@[simp] theorem State.setWriter_rans (cur : Byte) (cnt : BitVec 3) (s : State) : (s.setWriter cur cnt).rans = s.rans := rfl
@[simp] theorem State.setWriter_flags (cur : Byte) (cnt : BitVec 3) (s : State) : (s.setWriter cur cnt).flags = s.flags := rfl
@[simp] theorem State.setWriter_mtch (cur : Byte) (cnt : BitVec 3) (s : State) : (s.setWriter cur cnt).mtch = s.mtch := rfl
@[simp] theorem State.setWriter_model (cur : Byte) (cnt : BitVec 3) (s : State) : (s.setWriter cur cnt).model = s.model := rfl
@[simp] theorem State.setWriter_art (cur : Byte) (cnt : BitVec 3) (s : State) : (s.setWriter cur cnt).art = s.art := rfl
@[simp] theorem State.setWriter_out (cur : Byte) (cnt : BitVec 3) (s : State) : (s.setWriter cur cnt).out = s.out := rfl
@[simp] theorem State.setWriter_bwFlushed (cur : Byte) (cnt : BitVec 3) (s : State) : (s.setWriter cur cnt).bwFlushed = s.bwFlushed := rfl
@[simp] theorem State.setWriter_epoch (cur : Byte) (cnt : BitVec 3) (s : State) : (s.setWriter cur cnt).epoch = s.epoch := rfl
@[simp] theorem State.setWriter_pending (cur : Byte) (cnt : BitVec 3) (s : State) : (s.setWriter cur cnt).pending = s.pending := rfl
@[simp] theorem State.setWriter_cfg (cur : Byte) (cnt : BitVec 3) (s : State) : (s.setWriter cur cnt).cfg = s.cfg := rfl
@[simp] theorem State.setWriter_buf (cur : Byte) (cnt : BitVec 3) (s : State) (sp : Space) : (s.setWriter cur cnt).buf sp = s.buf sp := by
  cases sp <;> rfl
@[simp] theorem State.setWriter_len (cur : Byte) (cnt : BitVec 3) (s : State) (sp : Space) : (s.setWriter cur cnt).len sp = s.len sp :=
  State.len_congr (by simp)
@[simp] theorem State.setWriter_byte (cur : Byte) (cnt : BitVec 3) (s : State) (sp : Space) (a : Nat) :
    (s.setWriter cur cnt).byte sp a = s.byte sp a := State.byte_congr (by simp) a
@[simp] theorem State.setWriter_bytes (cur : Byte) (cnt : BitVec 3) (s : State) (sp : Space) (a n : Nat) :
    (s.setWriter cur cnt).bytes sp a n = s.bytes sp a n := State.bytes_congr (by simp) a n
@[simp] theorem State.setWriter_err (cur : Byte) (cnt : BitVec 3) (s : State) : (s.setWriter cur cnt).err = s.err := rfl
@[simp] theorem State.setWriter_isValid (cur : Byte) (cnt : BitVec 3) (s : State) (u : ValidBit) : (s.setWriter cur cnt).isValid u = s.isValid u := rfl

@[simp] theorem State.setFlushed_cmd (b : Bool) (s : State) : (s.setFlushed b).cmd = s.cmd := rfl
@[simp] theorem State.setFlushed_arg0 (b : Bool) (s : State) : (s.setFlushed b).arg0 = s.arg0 := rfl
@[simp] theorem State.setFlushed_arg1 (b : Bool) (s : State) : (s.setFlushed b).arg1 = s.arg1 := rfl
@[simp] theorem State.setFlushed_result (b : Bool) (s : State) : (s.setFlushed b).result = s.result := rfl
@[simp] theorem State.setFlushed_status (b : Bool) (s : State) : (s.setFlushed b).status = s.status := rfl
@[simp] theorem State.setFlushed_valid (b : Bool) (s : State) : (s.setFlushed b).valid = s.valid := rfl
@[simp] theorem State.setFlushed_hdr (b : Bool) (s : State) : (s.setFlushed b).hdr = s.hdr := rfl
@[simp] theorem State.setFlushed_bwCur (b : Bool) (s : State) : (s.setFlushed b).bwCur = s.bwCur := rfl
@[simp] theorem State.setFlushed_bwCnt (b : Bool) (s : State) : (s.setFlushed b).bwCnt = s.bwCnt := rfl
@[simp] theorem State.setFlushed_brPos (b : Bool) (s : State) : (s.setFlushed b).brPos = s.brPos := rfl
@[simp] theorem State.setFlushed_reState (b : Bool) (s : State) : (s.setFlushed b).reState = s.reState := rfl
@[simp] theorem State.setFlushed_rdState (b : Bool) (s : State) : (s.setFlushed b).rdState = s.rdState := rfl
@[simp] theorem State.setFlushed_rdPtr (b : Bool) (s : State) : (s.setFlushed b).rdPtr = s.rdPtr := rfl
@[simp] theorem State.setFlushed_lzP (b : Bool) (s : State) : (s.setFlushed b).lzP = s.lzP := rfl
@[simp] theorem State.setFlushed_decMpos (b : Bool) (s : State) : (s.setFlushed b).decMpos = s.decMpos := rfl
@[simp] theorem State.setFlushed_raw (b : Bool) (s : State) : (s.setFlushed b).raw = s.raw := rfl
@[simp] theorem State.setFlushed_freqs (b : Bool) (s : State) : (s.setFlushed b).freqs = s.freqs := rfl
@[simp] theorem State.setFlushed_cum (b : Bool) (s : State) : (s.setFlushed b).cum = s.cum := rfl
@[simp] theorem State.setFlushed_inp (b : Bool) (s : State) : (s.setFlushed b).inp = s.inp := rfl
@[simp] theorem State.setFlushed_lit (b : Bool) (s : State) : (s.setFlushed b).lit = s.lit := rfl
@[simp] theorem State.setFlushed_rans (b : Bool) (s : State) : (s.setFlushed b).rans = s.rans := rfl
@[simp] theorem State.setFlushed_flags (b : Bool) (s : State) : (s.setFlushed b).flags = s.flags := rfl
@[simp] theorem State.setFlushed_mtch (b : Bool) (s : State) : (s.setFlushed b).mtch = s.mtch := rfl
@[simp] theorem State.setFlushed_model (b : Bool) (s : State) : (s.setFlushed b).model = s.model := rfl
@[simp] theorem State.setFlushed_art (b : Bool) (s : State) : (s.setFlushed b).art = s.art := rfl
@[simp] theorem State.setFlushed_out (b : Bool) (s : State) : (s.setFlushed b).out = s.out := rfl
@[simp] theorem State.setFlushed_bwFlushed (b : Bool) (s : State) : (s.setFlushed b).bwFlushed = b := rfl
@[simp] theorem State.setFlushed_epoch (b : Bool) (s : State) : (s.setFlushed b).epoch = s.epoch := rfl
@[simp] theorem State.setFlushed_pending (b : Bool) (s : State) : (s.setFlushed b).pending = s.pending := rfl
@[simp] theorem State.setFlushed_cfg (b : Bool) (s : State) : (s.setFlushed b).cfg = s.cfg := rfl
@[simp] theorem State.setFlushed_buf (b : Bool) (s : State) (sp : Space) : (s.setFlushed b).buf sp = s.buf sp := by
  cases sp <;> rfl
@[simp] theorem State.setFlushed_len (b : Bool) (s : State) (sp : Space) : (s.setFlushed b).len sp = s.len sp :=
  State.len_congr (by simp)
@[simp] theorem State.setFlushed_byte (b : Bool) (s : State) (sp : Space) (a : Nat) :
    (s.setFlushed b).byte sp a = s.byte sp a := State.byte_congr (by simp) a
@[simp] theorem State.setFlushed_bytes (b : Bool) (s : State) (sp : Space) (a n : Nat) :
    (s.setFlushed b).bytes sp a n = s.bytes sp a n := State.bytes_congr (by simp) a n
@[simp] theorem State.setFlushed_err (b : Bool) (s : State) : (s.setFlushed b).err = s.err := rfl
@[simp] theorem State.setFlushed_isValid (b : Bool) (s : State) (u : ValidBit) : (s.setFlushed b).isValid u = s.isValid u := rfl

@[simp] theorem State.setBrPos_cmd (p : Word) (s : State) : (s.setBrPos p).cmd = s.cmd := rfl
@[simp] theorem State.setBrPos_arg0 (p : Word) (s : State) : (s.setBrPos p).arg0 = s.arg0 := rfl
@[simp] theorem State.setBrPos_arg1 (p : Word) (s : State) : (s.setBrPos p).arg1 = s.arg1 := rfl
@[simp] theorem State.setBrPos_result (p : Word) (s : State) : (s.setBrPos p).result = s.result := rfl
@[simp] theorem State.setBrPos_status (p : Word) (s : State) : (s.setBrPos p).status = s.status := rfl
@[simp] theorem State.setBrPos_valid (p : Word) (s : State) : (s.setBrPos p).valid = s.valid := rfl
@[simp] theorem State.setBrPos_hdr (p : Word) (s : State) : (s.setBrPos p).hdr = s.hdr := rfl
@[simp] theorem State.setBrPos_bwCur (p : Word) (s : State) : (s.setBrPos p).bwCur = s.bwCur := rfl
@[simp] theorem State.setBrPos_bwCnt (p : Word) (s : State) : (s.setBrPos p).bwCnt = s.bwCnt := rfl
@[simp] theorem State.setBrPos_brPos (p : Word) (s : State) : (s.setBrPos p).brPos = p := rfl
@[simp] theorem State.setBrPos_reState (p : Word) (s : State) : (s.setBrPos p).reState = s.reState := rfl
@[simp] theorem State.setBrPos_rdState (p : Word) (s : State) : (s.setBrPos p).rdState = s.rdState := rfl
@[simp] theorem State.setBrPos_rdPtr (p : Word) (s : State) : (s.setBrPos p).rdPtr = s.rdPtr := rfl
@[simp] theorem State.setBrPos_lzP (p : Word) (s : State) : (s.setBrPos p).lzP = s.lzP := rfl
@[simp] theorem State.setBrPos_decMpos (p : Word) (s : State) : (s.setBrPos p).decMpos = s.decMpos := rfl
@[simp] theorem State.setBrPos_raw (p : Word) (s : State) : (s.setBrPos p).raw = s.raw := rfl
@[simp] theorem State.setBrPos_freqs (p : Word) (s : State) : (s.setBrPos p).freqs = s.freqs := rfl
@[simp] theorem State.setBrPos_cum (p : Word) (s : State) : (s.setBrPos p).cum = s.cum := rfl
@[simp] theorem State.setBrPos_inp (p : Word) (s : State) : (s.setBrPos p).inp = s.inp := rfl
@[simp] theorem State.setBrPos_lit (p : Word) (s : State) : (s.setBrPos p).lit = s.lit := rfl
@[simp] theorem State.setBrPos_rans (p : Word) (s : State) : (s.setBrPos p).rans = s.rans := rfl
@[simp] theorem State.setBrPos_flags (p : Word) (s : State) : (s.setBrPos p).flags = s.flags := rfl
@[simp] theorem State.setBrPos_mtch (p : Word) (s : State) : (s.setBrPos p).mtch = s.mtch := rfl
@[simp] theorem State.setBrPos_model (p : Word) (s : State) : (s.setBrPos p).model = s.model := rfl
@[simp] theorem State.setBrPos_art (p : Word) (s : State) : (s.setBrPos p).art = s.art := rfl
@[simp] theorem State.setBrPos_out (p : Word) (s : State) : (s.setBrPos p).out = s.out := rfl
@[simp] theorem State.setBrPos_bwFlushed (p : Word) (s : State) : (s.setBrPos p).bwFlushed = s.bwFlushed := rfl
@[simp] theorem State.setBrPos_epoch (p : Word) (s : State) : (s.setBrPos p).epoch = s.epoch := rfl
@[simp] theorem State.setBrPos_pending (p : Word) (s : State) : (s.setBrPos p).pending = s.pending := rfl
@[simp] theorem State.setBrPos_cfg (p : Word) (s : State) : (s.setBrPos p).cfg = s.cfg := rfl
@[simp] theorem State.setBrPos_buf (p : Word) (s : State) (sp : Space) : (s.setBrPos p).buf sp = s.buf sp := by
  cases sp <;> rfl
@[simp] theorem State.setBrPos_len (p : Word) (s : State) (sp : Space) : (s.setBrPos p).len sp = s.len sp :=
  State.len_congr (by simp)
@[simp] theorem State.setBrPos_byte (p : Word) (s : State) (sp : Space) (a : Nat) :
    (s.setBrPos p).byte sp a = s.byte sp a := State.byte_congr (by simp) a
@[simp] theorem State.setBrPos_bytes (p : Word) (s : State) (sp : Space) (a n : Nat) :
    (s.setBrPos p).bytes sp a n = s.bytes sp a n := State.bytes_congr (by simp) a n
@[simp] theorem State.setBrPos_err (p : Word) (s : State) : (s.setBrPos p).err = s.err := rfl
@[simp] theorem State.setBrPos_isValid (p : Word) (s : State) (u : ValidBit) : (s.setBrPos p).isValid u = s.isValid u := rfl

@[simp] theorem State.setReState_cmd (x : Word) (s : State) : (s.setReState x).cmd = s.cmd := rfl
@[simp] theorem State.setReState_arg0 (x : Word) (s : State) : (s.setReState x).arg0 = s.arg0 := rfl
@[simp] theorem State.setReState_arg1 (x : Word) (s : State) : (s.setReState x).arg1 = s.arg1 := rfl
@[simp] theorem State.setReState_result (x : Word) (s : State) : (s.setReState x).result = s.result := rfl
@[simp] theorem State.setReState_status (x : Word) (s : State) : (s.setReState x).status = s.status := rfl
@[simp] theorem State.setReState_valid (x : Word) (s : State) : (s.setReState x).valid = s.valid := rfl
@[simp] theorem State.setReState_hdr (x : Word) (s : State) : (s.setReState x).hdr = s.hdr := rfl
@[simp] theorem State.setReState_bwCur (x : Word) (s : State) : (s.setReState x).bwCur = s.bwCur := rfl
@[simp] theorem State.setReState_bwCnt (x : Word) (s : State) : (s.setReState x).bwCnt = s.bwCnt := rfl
@[simp] theorem State.setReState_brPos (x : Word) (s : State) : (s.setReState x).brPos = s.brPos := rfl
@[simp] theorem State.setReState_reState (x : Word) (s : State) : (s.setReState x).reState = x := rfl
@[simp] theorem State.setReState_rdState (x : Word) (s : State) : (s.setReState x).rdState = s.rdState := rfl
@[simp] theorem State.setReState_rdPtr (x : Word) (s : State) : (s.setReState x).rdPtr = s.rdPtr := rfl
@[simp] theorem State.setReState_lzP (x : Word) (s : State) : (s.setReState x).lzP = s.lzP := rfl
@[simp] theorem State.setReState_decMpos (x : Word) (s : State) : (s.setReState x).decMpos = s.decMpos := rfl
@[simp] theorem State.setReState_raw (x : Word) (s : State) : (s.setReState x).raw = s.raw := rfl
@[simp] theorem State.setReState_freqs (x : Word) (s : State) : (s.setReState x).freqs = s.freqs := rfl
@[simp] theorem State.setReState_cum (x : Word) (s : State) : (s.setReState x).cum = s.cum := rfl
@[simp] theorem State.setReState_inp (x : Word) (s : State) : (s.setReState x).inp = s.inp := rfl
@[simp] theorem State.setReState_lit (x : Word) (s : State) : (s.setReState x).lit = s.lit := rfl
@[simp] theorem State.setReState_rans (x : Word) (s : State) : (s.setReState x).rans = s.rans := rfl
@[simp] theorem State.setReState_flags (x : Word) (s : State) : (s.setReState x).flags = s.flags := rfl
@[simp] theorem State.setReState_mtch (x : Word) (s : State) : (s.setReState x).mtch = s.mtch := rfl
@[simp] theorem State.setReState_model (x : Word) (s : State) : (s.setReState x).model = s.model := rfl
@[simp] theorem State.setReState_art (x : Word) (s : State) : (s.setReState x).art = s.art := rfl
@[simp] theorem State.setReState_out (x : Word) (s : State) : (s.setReState x).out = s.out := rfl
@[simp] theorem State.setReState_bwFlushed (x : Word) (s : State) : (s.setReState x).bwFlushed = s.bwFlushed := rfl
@[simp] theorem State.setReState_epoch (x : Word) (s : State) : (s.setReState x).epoch = s.epoch := rfl
@[simp] theorem State.setReState_pending (x : Word) (s : State) : (s.setReState x).pending = s.pending := rfl
@[simp] theorem State.setReState_cfg (x : Word) (s : State) : (s.setReState x).cfg = s.cfg := rfl
@[simp] theorem State.setReState_buf (x : Word) (s : State) (sp : Space) : (s.setReState x).buf sp = s.buf sp := by
  cases sp <;> rfl
@[simp] theorem State.setReState_len (x : Word) (s : State) (sp : Space) : (s.setReState x).len sp = s.len sp :=
  State.len_congr (by simp)
@[simp] theorem State.setReState_byte (x : Word) (s : State) (sp : Space) (a : Nat) :
    (s.setReState x).byte sp a = s.byte sp a := State.byte_congr (by simp) a
@[simp] theorem State.setReState_bytes (x : Word) (s : State) (sp : Space) (a n : Nat) :
    (s.setReState x).bytes sp a n = s.bytes sp a n := State.bytes_congr (by simp) a n
@[simp] theorem State.setReState_err (x : Word) (s : State) : (s.setReState x).err = s.err := rfl
@[simp] theorem State.setReState_isValid (x : Word) (s : State) (u : ValidBit) : (s.setReState x).isValid u = s.isValid u := rfl

@[simp] theorem State.setDecoder_cmd (x ptr : Word) (s : State) : (s.setDecoder x ptr).cmd = s.cmd := rfl
@[simp] theorem State.setDecoder_arg0 (x ptr : Word) (s : State) : (s.setDecoder x ptr).arg0 = s.arg0 := rfl
@[simp] theorem State.setDecoder_arg1 (x ptr : Word) (s : State) : (s.setDecoder x ptr).arg1 = s.arg1 := rfl
@[simp] theorem State.setDecoder_result (x ptr : Word) (s : State) : (s.setDecoder x ptr).result = s.result := rfl
@[simp] theorem State.setDecoder_status (x ptr : Word) (s : State) : (s.setDecoder x ptr).status = s.status := rfl
@[simp] theorem State.setDecoder_valid (x ptr : Word) (s : State) : (s.setDecoder x ptr).valid = s.valid := rfl
@[simp] theorem State.setDecoder_hdr (x ptr : Word) (s : State) : (s.setDecoder x ptr).hdr = s.hdr := rfl
@[simp] theorem State.setDecoder_bwCur (x ptr : Word) (s : State) : (s.setDecoder x ptr).bwCur = s.bwCur := rfl
@[simp] theorem State.setDecoder_bwCnt (x ptr : Word) (s : State) : (s.setDecoder x ptr).bwCnt = s.bwCnt := rfl
@[simp] theorem State.setDecoder_brPos (x ptr : Word) (s : State) : (s.setDecoder x ptr).brPos = s.brPos := rfl
@[simp] theorem State.setDecoder_reState (x ptr : Word) (s : State) : (s.setDecoder x ptr).reState = s.reState := rfl
@[simp] theorem State.setDecoder_rdState (x ptr : Word) (s : State) : (s.setDecoder x ptr).rdState = x := rfl
@[simp] theorem State.setDecoder_rdPtr (x ptr : Word) (s : State) : (s.setDecoder x ptr).rdPtr = ptr := rfl
@[simp] theorem State.setDecoder_lzP (x ptr : Word) (s : State) : (s.setDecoder x ptr).lzP = s.lzP := rfl
@[simp] theorem State.setDecoder_decMpos (x ptr : Word) (s : State) : (s.setDecoder x ptr).decMpos = s.decMpos := rfl
@[simp] theorem State.setDecoder_raw (x ptr : Word) (s : State) : (s.setDecoder x ptr).raw = s.raw := rfl
@[simp] theorem State.setDecoder_freqs (x ptr : Word) (s : State) : (s.setDecoder x ptr).freqs = s.freqs := rfl
@[simp] theorem State.setDecoder_cum (x ptr : Word) (s : State) : (s.setDecoder x ptr).cum = s.cum := rfl
@[simp] theorem State.setDecoder_inp (x ptr : Word) (s : State) : (s.setDecoder x ptr).inp = s.inp := rfl
@[simp] theorem State.setDecoder_lit (x ptr : Word) (s : State) : (s.setDecoder x ptr).lit = s.lit := rfl
@[simp] theorem State.setDecoder_rans (x ptr : Word) (s : State) : (s.setDecoder x ptr).rans = s.rans := rfl
@[simp] theorem State.setDecoder_flags (x ptr : Word) (s : State) : (s.setDecoder x ptr).flags = s.flags := rfl
@[simp] theorem State.setDecoder_mtch (x ptr : Word) (s : State) : (s.setDecoder x ptr).mtch = s.mtch := rfl
@[simp] theorem State.setDecoder_model (x ptr : Word) (s : State) : (s.setDecoder x ptr).model = s.model := rfl
@[simp] theorem State.setDecoder_art (x ptr : Word) (s : State) : (s.setDecoder x ptr).art = s.art := rfl
@[simp] theorem State.setDecoder_out (x ptr : Word) (s : State) : (s.setDecoder x ptr).out = s.out := rfl
@[simp] theorem State.setDecoder_bwFlushed (x ptr : Word) (s : State) : (s.setDecoder x ptr).bwFlushed = s.bwFlushed := rfl
@[simp] theorem State.setDecoder_epoch (x ptr : Word) (s : State) : (s.setDecoder x ptr).epoch = s.epoch := rfl
@[simp] theorem State.setDecoder_pending (x ptr : Word) (s : State) : (s.setDecoder x ptr).pending = s.pending := rfl
@[simp] theorem State.setDecoder_cfg (x ptr : Word) (s : State) : (s.setDecoder x ptr).cfg = s.cfg := rfl
@[simp] theorem State.setDecoder_buf (x ptr : Word) (s : State) (sp : Space) : (s.setDecoder x ptr).buf sp = s.buf sp := by
  cases sp <;> rfl
@[simp] theorem State.setDecoder_len (x ptr : Word) (s : State) (sp : Space) : (s.setDecoder x ptr).len sp = s.len sp :=
  State.len_congr (by simp)
@[simp] theorem State.setDecoder_byte (x ptr : Word) (s : State) (sp : Space) (a : Nat) :
    (s.setDecoder x ptr).byte sp a = s.byte sp a := State.byte_congr (by simp) a
@[simp] theorem State.setDecoder_bytes (x ptr : Word) (s : State) (sp : Space) (a n : Nat) :
    (s.setDecoder x ptr).bytes sp a n = s.bytes sp a n := State.bytes_congr (by simp) a n
@[simp] theorem State.setDecoder_err (x ptr : Word) (s : State) : (s.setDecoder x ptr).err = s.err := rfl
@[simp] theorem State.setDecoder_isValid (x ptr : Word) (s : State) (u : ValidBit) : (s.setDecoder x ptr).isValid u = s.isValid u := rfl

@[simp] theorem State.setLzP_cmd (p : Word) (s : State) : (s.setLzP p).cmd = s.cmd := rfl
@[simp] theorem State.setLzP_arg0 (p : Word) (s : State) : (s.setLzP p).arg0 = s.arg0 := rfl
@[simp] theorem State.setLzP_arg1 (p : Word) (s : State) : (s.setLzP p).arg1 = s.arg1 := rfl
@[simp] theorem State.setLzP_result (p : Word) (s : State) : (s.setLzP p).result = s.result := rfl
@[simp] theorem State.setLzP_status (p : Word) (s : State) : (s.setLzP p).status = s.status := rfl
@[simp] theorem State.setLzP_valid (p : Word) (s : State) : (s.setLzP p).valid = s.valid := rfl
@[simp] theorem State.setLzP_hdr (p : Word) (s : State) : (s.setLzP p).hdr = s.hdr := rfl
@[simp] theorem State.setLzP_bwCur (p : Word) (s : State) : (s.setLzP p).bwCur = s.bwCur := rfl
@[simp] theorem State.setLzP_bwCnt (p : Word) (s : State) : (s.setLzP p).bwCnt = s.bwCnt := rfl
@[simp] theorem State.setLzP_brPos (p : Word) (s : State) : (s.setLzP p).brPos = s.brPos := rfl
@[simp] theorem State.setLzP_reState (p : Word) (s : State) : (s.setLzP p).reState = s.reState := rfl
@[simp] theorem State.setLzP_rdState (p : Word) (s : State) : (s.setLzP p).rdState = s.rdState := rfl
@[simp] theorem State.setLzP_rdPtr (p : Word) (s : State) : (s.setLzP p).rdPtr = s.rdPtr := rfl
@[simp] theorem State.setLzP_lzP (p : Word) (s : State) : (s.setLzP p).lzP = p := rfl
@[simp] theorem State.setLzP_decMpos (p : Word) (s : State) : (s.setLzP p).decMpos = s.decMpos := rfl
@[simp] theorem State.setLzP_raw (p : Word) (s : State) : (s.setLzP p).raw = s.raw := rfl
@[simp] theorem State.setLzP_freqs (p : Word) (s : State) : (s.setLzP p).freqs = s.freqs := rfl
@[simp] theorem State.setLzP_cum (p : Word) (s : State) : (s.setLzP p).cum = s.cum := rfl
@[simp] theorem State.setLzP_inp (p : Word) (s : State) : (s.setLzP p).inp = s.inp := rfl
@[simp] theorem State.setLzP_lit (p : Word) (s : State) : (s.setLzP p).lit = s.lit := rfl
@[simp] theorem State.setLzP_rans (p : Word) (s : State) : (s.setLzP p).rans = s.rans := rfl
@[simp] theorem State.setLzP_flags (p : Word) (s : State) : (s.setLzP p).flags = s.flags := rfl
@[simp] theorem State.setLzP_mtch (p : Word) (s : State) : (s.setLzP p).mtch = s.mtch := rfl
@[simp] theorem State.setLzP_model (p : Word) (s : State) : (s.setLzP p).model = s.model := rfl
@[simp] theorem State.setLzP_art (p : Word) (s : State) : (s.setLzP p).art = s.art := rfl
@[simp] theorem State.setLzP_out (p : Word) (s : State) : (s.setLzP p).out = s.out := rfl
@[simp] theorem State.setLzP_bwFlushed (p : Word) (s : State) : (s.setLzP p).bwFlushed = s.bwFlushed := rfl
@[simp] theorem State.setLzP_epoch (p : Word) (s : State) : (s.setLzP p).epoch = s.epoch := rfl
@[simp] theorem State.setLzP_pending (p : Word) (s : State) : (s.setLzP p).pending = s.pending := rfl
@[simp] theorem State.setLzP_cfg (p : Word) (s : State) : (s.setLzP p).cfg = s.cfg := rfl
@[simp] theorem State.setLzP_buf (p : Word) (s : State) (sp : Space) : (s.setLzP p).buf sp = s.buf sp := by
  cases sp <;> rfl
@[simp] theorem State.setLzP_len (p : Word) (s : State) (sp : Space) : (s.setLzP p).len sp = s.len sp :=
  State.len_congr (by simp)
@[simp] theorem State.setLzP_byte (p : Word) (s : State) (sp : Space) (a : Nat) :
    (s.setLzP p).byte sp a = s.byte sp a := State.byte_congr (by simp) a
@[simp] theorem State.setLzP_bytes (p : Word) (s : State) (sp : Space) (a n : Nat) :
    (s.setLzP p).bytes sp a n = s.bytes sp a n := State.bytes_congr (by simp) a n
@[simp] theorem State.setLzP_err (p : Word) (s : State) : (s.setLzP p).err = s.err := rfl
@[simp] theorem State.setLzP_isValid (p : Word) (s : State) (u : ValidBit) : (s.setLzP p).isValid u = s.isValid u := rfl

@[simp] theorem State.setDecMpos_cmd (p : Word) (s : State) : (s.setDecMpos p).cmd = s.cmd := rfl
@[simp] theorem State.setDecMpos_arg0 (p : Word) (s : State) : (s.setDecMpos p).arg0 = s.arg0 := rfl
@[simp] theorem State.setDecMpos_arg1 (p : Word) (s : State) : (s.setDecMpos p).arg1 = s.arg1 := rfl
@[simp] theorem State.setDecMpos_result (p : Word) (s : State) : (s.setDecMpos p).result = s.result := rfl
@[simp] theorem State.setDecMpos_status (p : Word) (s : State) : (s.setDecMpos p).status = s.status := rfl
@[simp] theorem State.setDecMpos_valid (p : Word) (s : State) : (s.setDecMpos p).valid = s.valid := rfl
@[simp] theorem State.setDecMpos_hdr (p : Word) (s : State) : (s.setDecMpos p).hdr = s.hdr := rfl
@[simp] theorem State.setDecMpos_bwCur (p : Word) (s : State) : (s.setDecMpos p).bwCur = s.bwCur := rfl
@[simp] theorem State.setDecMpos_bwCnt (p : Word) (s : State) : (s.setDecMpos p).bwCnt = s.bwCnt := rfl
@[simp] theorem State.setDecMpos_brPos (p : Word) (s : State) : (s.setDecMpos p).brPos = s.brPos := rfl
@[simp] theorem State.setDecMpos_reState (p : Word) (s : State) : (s.setDecMpos p).reState = s.reState := rfl
@[simp] theorem State.setDecMpos_rdState (p : Word) (s : State) : (s.setDecMpos p).rdState = s.rdState := rfl
@[simp] theorem State.setDecMpos_rdPtr (p : Word) (s : State) : (s.setDecMpos p).rdPtr = s.rdPtr := rfl
@[simp] theorem State.setDecMpos_lzP (p : Word) (s : State) : (s.setDecMpos p).lzP = s.lzP := rfl
@[simp] theorem State.setDecMpos_decMpos (p : Word) (s : State) : (s.setDecMpos p).decMpos = p := rfl
@[simp] theorem State.setDecMpos_raw (p : Word) (s : State) : (s.setDecMpos p).raw = s.raw := rfl
@[simp] theorem State.setDecMpos_freqs (p : Word) (s : State) : (s.setDecMpos p).freqs = s.freqs := rfl
@[simp] theorem State.setDecMpos_cum (p : Word) (s : State) : (s.setDecMpos p).cum = s.cum := rfl
@[simp] theorem State.setDecMpos_inp (p : Word) (s : State) : (s.setDecMpos p).inp = s.inp := rfl
@[simp] theorem State.setDecMpos_lit (p : Word) (s : State) : (s.setDecMpos p).lit = s.lit := rfl
@[simp] theorem State.setDecMpos_rans (p : Word) (s : State) : (s.setDecMpos p).rans = s.rans := rfl
@[simp] theorem State.setDecMpos_flags (p : Word) (s : State) : (s.setDecMpos p).flags = s.flags := rfl
@[simp] theorem State.setDecMpos_mtch (p : Word) (s : State) : (s.setDecMpos p).mtch = s.mtch := rfl
@[simp] theorem State.setDecMpos_model (p : Word) (s : State) : (s.setDecMpos p).model = s.model := rfl
@[simp] theorem State.setDecMpos_art (p : Word) (s : State) : (s.setDecMpos p).art = s.art := rfl
@[simp] theorem State.setDecMpos_out (p : Word) (s : State) : (s.setDecMpos p).out = s.out := rfl
@[simp] theorem State.setDecMpos_bwFlushed (p : Word) (s : State) : (s.setDecMpos p).bwFlushed = s.bwFlushed := rfl
@[simp] theorem State.setDecMpos_epoch (p : Word) (s : State) : (s.setDecMpos p).epoch = s.epoch := rfl
@[simp] theorem State.setDecMpos_pending (p : Word) (s : State) : (s.setDecMpos p).pending = s.pending := rfl
@[simp] theorem State.setDecMpos_cfg (p : Word) (s : State) : (s.setDecMpos p).cfg = s.cfg := rfl
@[simp] theorem State.setDecMpos_buf (p : Word) (s : State) (sp : Space) : (s.setDecMpos p).buf sp = s.buf sp := by
  cases sp <;> rfl
@[simp] theorem State.setDecMpos_len (p : Word) (s : State) (sp : Space) : (s.setDecMpos p).len sp = s.len sp :=
  State.len_congr (by simp)
@[simp] theorem State.setDecMpos_byte (p : Word) (s : State) (sp : Space) (a : Nat) :
    (s.setDecMpos p).byte sp a = s.byte sp a := State.byte_congr (by simp) a
@[simp] theorem State.setDecMpos_bytes (p : Word) (s : State) (sp : Space) (a n : Nat) :
    (s.setDecMpos p).bytes sp a n = s.bytes sp a n := State.bytes_congr (by simp) a n
@[simp] theorem State.setDecMpos_err (p : Word) (s : State) : (s.setDecMpos p).err = s.err := rfl
@[simp] theorem State.setDecMpos_isValid (p : Word) (s : State) (u : ValidBit) : (s.setDecMpos p).isValid u = s.isValid u := rfl

@[simp] theorem State.setHdr_cmd (h : Header) (s : State) : (s.setHdr h).cmd = s.cmd := rfl
@[simp] theorem State.setHdr_arg0 (h : Header) (s : State) : (s.setHdr h).arg0 = s.arg0 := rfl
@[simp] theorem State.setHdr_arg1 (h : Header) (s : State) : (s.setHdr h).arg1 = s.arg1 := rfl
@[simp] theorem State.setHdr_result (h : Header) (s : State) : (s.setHdr h).result = s.result := rfl
@[simp] theorem State.setHdr_status (h : Header) (s : State) : (s.setHdr h).status = s.status := rfl
@[simp] theorem State.setHdr_valid (h : Header) (s : State) : (s.setHdr h).valid = s.valid := rfl
@[simp] theorem State.setHdr_hdr (h : Header) (s : State) : (s.setHdr h).hdr = h := rfl
@[simp] theorem State.setHdr_bwCur (h : Header) (s : State) : (s.setHdr h).bwCur = s.bwCur := rfl
@[simp] theorem State.setHdr_bwCnt (h : Header) (s : State) : (s.setHdr h).bwCnt = s.bwCnt := rfl
@[simp] theorem State.setHdr_brPos (h : Header) (s : State) : (s.setHdr h).brPos = s.brPos := rfl
@[simp] theorem State.setHdr_reState (h : Header) (s : State) : (s.setHdr h).reState = s.reState := rfl
@[simp] theorem State.setHdr_rdState (h : Header) (s : State) : (s.setHdr h).rdState = s.rdState := rfl
@[simp] theorem State.setHdr_rdPtr (h : Header) (s : State) : (s.setHdr h).rdPtr = s.rdPtr := rfl
@[simp] theorem State.setHdr_lzP (h : Header) (s : State) : (s.setHdr h).lzP = s.lzP := rfl
@[simp] theorem State.setHdr_decMpos (h : Header) (s : State) : (s.setHdr h).decMpos = s.decMpos := rfl
@[simp] theorem State.setHdr_raw (h : Header) (s : State) : (s.setHdr h).raw = s.raw := rfl
@[simp] theorem State.setHdr_freqs (h : Header) (s : State) : (s.setHdr h).freqs = s.freqs := rfl
@[simp] theorem State.setHdr_cum (h : Header) (s : State) : (s.setHdr h).cum = s.cum := rfl
@[simp] theorem State.setHdr_inp (h : Header) (s : State) : (s.setHdr h).inp = s.inp := rfl
@[simp] theorem State.setHdr_lit (h : Header) (s : State) : (s.setHdr h).lit = s.lit := rfl
@[simp] theorem State.setHdr_rans (h : Header) (s : State) : (s.setHdr h).rans = s.rans := rfl
@[simp] theorem State.setHdr_flags (h : Header) (s : State) : (s.setHdr h).flags = s.flags := rfl
@[simp] theorem State.setHdr_mtch (h : Header) (s : State) : (s.setHdr h).mtch = s.mtch := rfl
@[simp] theorem State.setHdr_model (h : Header) (s : State) : (s.setHdr h).model = s.model := rfl
@[simp] theorem State.setHdr_art (h : Header) (s : State) : (s.setHdr h).art = s.art := rfl
@[simp] theorem State.setHdr_out (h : Header) (s : State) : (s.setHdr h).out = s.out := rfl
@[simp] theorem State.setHdr_bwFlushed (h : Header) (s : State) : (s.setHdr h).bwFlushed = s.bwFlushed := rfl
@[simp] theorem State.setHdr_epoch (h : Header) (s : State) : (s.setHdr h).epoch = s.epoch := rfl
@[simp] theorem State.setHdr_pending (h : Header) (s : State) : (s.setHdr h).pending = s.pending := rfl
@[simp] theorem State.setHdr_cfg (h : Header) (s : State) : (s.setHdr h).cfg = s.cfg := rfl
@[simp] theorem State.setHdr_buf (h : Header) (s : State) (sp : Space) : (s.setHdr h).buf sp = s.buf sp := by
  cases sp <;> rfl
@[simp] theorem State.setHdr_len (h : Header) (s : State) (sp : Space) : (s.setHdr h).len sp = s.len sp :=
  State.len_congr (by simp)
@[simp] theorem State.setHdr_byte (h : Header) (s : State) (sp : Space) (a : Nat) :
    (s.setHdr h).byte sp a = s.byte sp a := State.byte_congr (by simp) a
@[simp] theorem State.setHdr_bytes (h : Header) (s : State) (sp : Space) (a n : Nat) :
    (s.setHdr h).bytes sp a n = s.bytes sp a n := State.bytes_congr (by simp) a n
@[simp] theorem State.setHdr_err (h : Header) (s : State) : (s.setHdr h).err = s.err := rfl
@[simp] theorem State.setHdr_isValid (h : Header) (s : State) (u : ValidBit) : (s.setHdr h).isValid u = s.isValid u := rfl

@[simp] theorem State.setRaw_cmd (r : Vector Word 256) (s : State) : (s.setRaw r).cmd = s.cmd := rfl
@[simp] theorem State.setRaw_arg0 (r : Vector Word 256) (s : State) : (s.setRaw r).arg0 = s.arg0 := rfl
@[simp] theorem State.setRaw_arg1 (r : Vector Word 256) (s : State) : (s.setRaw r).arg1 = s.arg1 := rfl
@[simp] theorem State.setRaw_result (r : Vector Word 256) (s : State) : (s.setRaw r).result = s.result := rfl
@[simp] theorem State.setRaw_status (r : Vector Word 256) (s : State) : (s.setRaw r).status = s.status := rfl
@[simp] theorem State.setRaw_valid (r : Vector Word 256) (s : State) : (s.setRaw r).valid = s.valid := rfl
@[simp] theorem State.setRaw_hdr (r : Vector Word 256) (s : State) : (s.setRaw r).hdr = s.hdr := rfl
@[simp] theorem State.setRaw_bwCur (r : Vector Word 256) (s : State) : (s.setRaw r).bwCur = s.bwCur := rfl
@[simp] theorem State.setRaw_bwCnt (r : Vector Word 256) (s : State) : (s.setRaw r).bwCnt = s.bwCnt := rfl
@[simp] theorem State.setRaw_brPos (r : Vector Word 256) (s : State) : (s.setRaw r).brPos = s.brPos := rfl
@[simp] theorem State.setRaw_reState (r : Vector Word 256) (s : State) : (s.setRaw r).reState = s.reState := rfl
@[simp] theorem State.setRaw_rdState (r : Vector Word 256) (s : State) : (s.setRaw r).rdState = s.rdState := rfl
@[simp] theorem State.setRaw_rdPtr (r : Vector Word 256) (s : State) : (s.setRaw r).rdPtr = s.rdPtr := rfl
@[simp] theorem State.setRaw_lzP (r : Vector Word 256) (s : State) : (s.setRaw r).lzP = s.lzP := rfl
@[simp] theorem State.setRaw_decMpos (r : Vector Word 256) (s : State) : (s.setRaw r).decMpos = s.decMpos := rfl
@[simp] theorem State.setRaw_raw (r : Vector Word 256) (s : State) : (s.setRaw r).raw = r := rfl
@[simp] theorem State.setRaw_freqs (r : Vector Word 256) (s : State) : (s.setRaw r).freqs = s.freqs := rfl
@[simp] theorem State.setRaw_cum (r : Vector Word 256) (s : State) : (s.setRaw r).cum = s.cum := rfl
@[simp] theorem State.setRaw_inp (r : Vector Word 256) (s : State) : (s.setRaw r).inp = s.inp := rfl
@[simp] theorem State.setRaw_lit (r : Vector Word 256) (s : State) : (s.setRaw r).lit = s.lit := rfl
@[simp] theorem State.setRaw_rans (r : Vector Word 256) (s : State) : (s.setRaw r).rans = s.rans := rfl
@[simp] theorem State.setRaw_flags (r : Vector Word 256) (s : State) : (s.setRaw r).flags = s.flags := rfl
@[simp] theorem State.setRaw_mtch (r : Vector Word 256) (s : State) : (s.setRaw r).mtch = s.mtch := rfl
@[simp] theorem State.setRaw_model (r : Vector Word 256) (s : State) : (s.setRaw r).model = s.model := rfl
@[simp] theorem State.setRaw_art (r : Vector Word 256) (s : State) : (s.setRaw r).art = s.art := rfl
@[simp] theorem State.setRaw_out (r : Vector Word 256) (s : State) : (s.setRaw r).out = s.out := rfl
@[simp] theorem State.setRaw_bwFlushed (r : Vector Word 256) (s : State) : (s.setRaw r).bwFlushed = s.bwFlushed := rfl
@[simp] theorem State.setRaw_epoch (r : Vector Word 256) (s : State) : (s.setRaw r).epoch = s.epoch := rfl
@[simp] theorem State.setRaw_pending (r : Vector Word 256) (s : State) : (s.setRaw r).pending = s.pending := rfl
@[simp] theorem State.setRaw_cfg (r : Vector Word 256) (s : State) : (s.setRaw r).cfg = s.cfg := rfl
@[simp] theorem State.setRaw_buf (r : Vector Word 256) (s : State) (sp : Space) : (s.setRaw r).buf sp = s.buf sp := by
  cases sp <;> rfl
@[simp] theorem State.setRaw_len (r : Vector Word 256) (s : State) (sp : Space) : (s.setRaw r).len sp = s.len sp :=
  State.len_congr (by simp)
@[simp] theorem State.setRaw_byte (r : Vector Word 256) (s : State) (sp : Space) (a : Nat) :
    (s.setRaw r).byte sp a = s.byte sp a := State.byte_congr (by simp) a
@[simp] theorem State.setRaw_bytes (r : Vector Word 256) (s : State) (sp : Space) (a n : Nat) :
    (s.setRaw r).bytes sp a n = s.bytes sp a n := State.bytes_congr (by simp) a n
@[simp] theorem State.setRaw_err (r : Vector Word 256) (s : State) : (s.setRaw r).err = s.err := rfl
@[simp] theorem State.setRaw_isValid (r : Vector Word 256) (s : State) (u : ValidBit) : (s.setRaw r).isValid u = s.isValid u := rfl

@[simp] theorem State.setTables_cmd (f : Vector Half 256) (c : Vector Half 257) (s : State) : (s.setTables f c).cmd = s.cmd := rfl
@[simp] theorem State.setTables_arg0 (f : Vector Half 256) (c : Vector Half 257) (s : State) : (s.setTables f c).arg0 = s.arg0 := rfl
@[simp] theorem State.setTables_arg1 (f : Vector Half 256) (c : Vector Half 257) (s : State) : (s.setTables f c).arg1 = s.arg1 := rfl
@[simp] theorem State.setTables_result (f : Vector Half 256) (c : Vector Half 257) (s : State) : (s.setTables f c).result = s.result := rfl
@[simp] theorem State.setTables_status (f : Vector Half 256) (c : Vector Half 257) (s : State) : (s.setTables f c).status = s.status := rfl
@[simp] theorem State.setTables_valid (f : Vector Half 256) (c : Vector Half 257) (s : State) : (s.setTables f c).valid = s.valid := rfl
@[simp] theorem State.setTables_hdr (f : Vector Half 256) (c : Vector Half 257) (s : State) : (s.setTables f c).hdr = s.hdr := rfl
@[simp] theorem State.setTables_bwCur (f : Vector Half 256) (c : Vector Half 257) (s : State) : (s.setTables f c).bwCur = s.bwCur := rfl
@[simp] theorem State.setTables_bwCnt (f : Vector Half 256) (c : Vector Half 257) (s : State) : (s.setTables f c).bwCnt = s.bwCnt := rfl
@[simp] theorem State.setTables_brPos (f : Vector Half 256) (c : Vector Half 257) (s : State) : (s.setTables f c).brPos = s.brPos := rfl
@[simp] theorem State.setTables_reState (f : Vector Half 256) (c : Vector Half 257) (s : State) : (s.setTables f c).reState = s.reState := rfl
@[simp] theorem State.setTables_rdState (f : Vector Half 256) (c : Vector Half 257) (s : State) : (s.setTables f c).rdState = s.rdState := rfl
@[simp] theorem State.setTables_rdPtr (f : Vector Half 256) (c : Vector Half 257) (s : State) : (s.setTables f c).rdPtr = s.rdPtr := rfl
@[simp] theorem State.setTables_lzP (f : Vector Half 256) (c : Vector Half 257) (s : State) : (s.setTables f c).lzP = s.lzP := rfl
@[simp] theorem State.setTables_decMpos (f : Vector Half 256) (c : Vector Half 257) (s : State) : (s.setTables f c).decMpos = s.decMpos := rfl
@[simp] theorem State.setTables_raw (f : Vector Half 256) (c : Vector Half 257) (s : State) : (s.setTables f c).raw = s.raw := rfl
@[simp] theorem State.setTables_freqs (f : Vector Half 256) (c : Vector Half 257) (s : State) : (s.setTables f c).freqs = f := rfl
@[simp] theorem State.setTables_cum (f : Vector Half 256) (c : Vector Half 257) (s : State) : (s.setTables f c).cum = c := rfl
@[simp] theorem State.setTables_inp (f : Vector Half 256) (c : Vector Half 257) (s : State) : (s.setTables f c).inp = s.inp := rfl
@[simp] theorem State.setTables_lit (f : Vector Half 256) (c : Vector Half 257) (s : State) : (s.setTables f c).lit = s.lit := rfl
@[simp] theorem State.setTables_rans (f : Vector Half 256) (c : Vector Half 257) (s : State) : (s.setTables f c).rans = s.rans := rfl
@[simp] theorem State.setTables_flags (f : Vector Half 256) (c : Vector Half 257) (s : State) : (s.setTables f c).flags = s.flags := rfl
@[simp] theorem State.setTables_mtch (f : Vector Half 256) (c : Vector Half 257) (s : State) : (s.setTables f c).mtch = s.mtch := rfl
@[simp] theorem State.setTables_model (f : Vector Half 256) (c : Vector Half 257) (s : State) : (s.setTables f c).model = s.model := rfl
@[simp] theorem State.setTables_art (f : Vector Half 256) (c : Vector Half 257) (s : State) : (s.setTables f c).art = s.art := rfl
@[simp] theorem State.setTables_out (f : Vector Half 256) (c : Vector Half 257) (s : State) : (s.setTables f c).out = s.out := rfl
@[simp] theorem State.setTables_bwFlushed (f : Vector Half 256) (c : Vector Half 257) (s : State) : (s.setTables f c).bwFlushed = s.bwFlushed := rfl
@[simp] theorem State.setTables_epoch (f : Vector Half 256) (c : Vector Half 257) (s : State) : (s.setTables f c).epoch = s.epoch := rfl
@[simp] theorem State.setTables_pending (f : Vector Half 256) (c : Vector Half 257) (s : State) : (s.setTables f c).pending = s.pending := rfl
@[simp] theorem State.setTables_cfg (f : Vector Half 256) (c : Vector Half 257) (s : State) : (s.setTables f c).cfg = s.cfg := rfl
@[simp] theorem State.setTables_buf (f : Vector Half 256) (c : Vector Half 257) (s : State) (sp : Space) : (s.setTables f c).buf sp = s.buf sp := by
  cases sp <;> rfl
@[simp] theorem State.setTables_len (f : Vector Half 256) (c : Vector Half 257) (s : State) (sp : Space) : (s.setTables f c).len sp = s.len sp :=
  State.len_congr (by simp)
@[simp] theorem State.setTables_byte (f : Vector Half 256) (c : Vector Half 257) (s : State) (sp : Space) (a : Nat) :
    (s.setTables f c).byte sp a = s.byte sp a := State.byte_congr (by simp) a
@[simp] theorem State.setTables_bytes (f : Vector Half 256) (c : Vector Half 257) (s : State) (sp : Space) (a n : Nat) :
    (s.setTables f c).bytes sp a n = s.bytes sp a n := State.bytes_congr (by simp) a n
@[simp] theorem State.setTables_err (f : Vector Half 256) (c : Vector Half 257) (s : State) : (s.setTables f c).err = s.err := rfl
@[simp] theorem State.setTables_isValid (f : Vector Half 256) (c : Vector Half 257) (s : State) (u : ValidBit) : (s.setTables f c).isValid u = s.isValid u := rfl

@[simp] theorem State.setResult_cmd (v : Word) (s : State) : (s.setResult v).cmd = s.cmd := rfl
@[simp] theorem State.setResult_arg0 (v : Word) (s : State) : (s.setResult v).arg0 = s.arg0 := rfl
@[simp] theorem State.setResult_arg1 (v : Word) (s : State) : (s.setResult v).arg1 = s.arg1 := rfl
@[simp] theorem State.setResult_result (v : Word) (s : State) : (s.setResult v).result = v := rfl
@[simp] theorem State.setResult_status (v : Word) (s : State) : (s.setResult v).status = s.status := rfl
@[simp] theorem State.setResult_valid (v : Word) (s : State) : (s.setResult v).valid = s.valid := rfl
@[simp] theorem State.setResult_hdr (v : Word) (s : State) : (s.setResult v).hdr = s.hdr := rfl
@[simp] theorem State.setResult_bwCur (v : Word) (s : State) : (s.setResult v).bwCur = s.bwCur := rfl
@[simp] theorem State.setResult_bwCnt (v : Word) (s : State) : (s.setResult v).bwCnt = s.bwCnt := rfl
@[simp] theorem State.setResult_brPos (v : Word) (s : State) : (s.setResult v).brPos = s.brPos := rfl
@[simp] theorem State.setResult_reState (v : Word) (s : State) : (s.setResult v).reState = s.reState := rfl
@[simp] theorem State.setResult_rdState (v : Word) (s : State) : (s.setResult v).rdState = s.rdState := rfl
@[simp] theorem State.setResult_rdPtr (v : Word) (s : State) : (s.setResult v).rdPtr = s.rdPtr := rfl
@[simp] theorem State.setResult_lzP (v : Word) (s : State) : (s.setResult v).lzP = s.lzP := rfl
@[simp] theorem State.setResult_decMpos (v : Word) (s : State) : (s.setResult v).decMpos = s.decMpos := rfl
@[simp] theorem State.setResult_raw (v : Word) (s : State) : (s.setResult v).raw = s.raw := rfl
@[simp] theorem State.setResult_freqs (v : Word) (s : State) : (s.setResult v).freqs = s.freqs := rfl
@[simp] theorem State.setResult_cum (v : Word) (s : State) : (s.setResult v).cum = s.cum := rfl
@[simp] theorem State.setResult_inp (v : Word) (s : State) : (s.setResult v).inp = s.inp := rfl
@[simp] theorem State.setResult_lit (v : Word) (s : State) : (s.setResult v).lit = s.lit := rfl
@[simp] theorem State.setResult_rans (v : Word) (s : State) : (s.setResult v).rans = s.rans := rfl
@[simp] theorem State.setResult_flags (v : Word) (s : State) : (s.setResult v).flags = s.flags := rfl
@[simp] theorem State.setResult_mtch (v : Word) (s : State) : (s.setResult v).mtch = s.mtch := rfl
@[simp] theorem State.setResult_model (v : Word) (s : State) : (s.setResult v).model = s.model := rfl
@[simp] theorem State.setResult_art (v : Word) (s : State) : (s.setResult v).art = s.art := rfl
@[simp] theorem State.setResult_out (v : Word) (s : State) : (s.setResult v).out = s.out := rfl
@[simp] theorem State.setResult_bwFlushed (v : Word) (s : State) : (s.setResult v).bwFlushed = s.bwFlushed := rfl
@[simp] theorem State.setResult_epoch (v : Word) (s : State) : (s.setResult v).epoch = s.epoch := rfl
@[simp] theorem State.setResult_pending (v : Word) (s : State) : (s.setResult v).pending = s.pending := rfl
@[simp] theorem State.setResult_cfg (v : Word) (s : State) : (s.setResult v).cfg = s.cfg := rfl
@[simp] theorem State.setResult_buf (v : Word) (s : State) (sp : Space) : (s.setResult v).buf sp = s.buf sp := by
  cases sp <;> rfl
@[simp] theorem State.setResult_len (v : Word) (s : State) (sp : Space) : (s.setResult v).len sp = s.len sp :=
  State.len_congr (by simp)
@[simp] theorem State.setResult_byte (v : Word) (s : State) (sp : Space) (a : Nat) :
    (s.setResult v).byte sp a = s.byte sp a := State.byte_congr (by simp) a
@[simp] theorem State.setResult_bytes (v : Word) (s : State) (sp : Space) (a n : Nat) :
    (s.setResult v).bytes sp a n = s.bytes sp a n := State.bytes_congr (by simp) a n
@[simp] theorem State.setResult_err (v : Word) (s : State) : (s.setResult v).err = s.err := rfl
@[simp] theorem State.setResult_isValid (v : Word) (s : State) (u : ValidBit) : (s.setResult v).isValid u = s.isValid u := rfl

@[simp] theorem State.setBuf_err (sp : Space) (b : Buf) (s : State) : (s.setBuf sp b).err = s.err := by
  simp [State.err]
@[simp] theorem State.setBuf_isValid (sp : Space) (b : Buf) (s : State) (u : ValidBit) : (s.setBuf sp b).isValid u = s.isValid u := by
  simp [State.isValid]
@[simp] theorem State.setLen_err (sp : Space) (n : Word) (s : State) : (s.setLen sp n).err = s.err := by
  simp [State.err]
@[simp] theorem State.setLen_isValid (sp : Space) (n : Word) (s : State) (u : ValidBit) : (s.setLen sp n).isValid u = s.isValid u := by
  simp [State.isValid]
@[simp] theorem State.writeBytes_err (sp : Space) (a : Nat) (bs : List Byte) (s : State) : (s.writeBytes sp a bs).err = s.err := by
  simp [State.err]
@[simp] theorem State.writeBytes_isValid (sp : Space) (a : Nat) (bs : List Byte) (s : State) (u : ValidBit) : (s.writeBytes sp a bs).isValid u = s.isValid u := by
  simp [State.isValid]
@[simp] theorem State.load_err (sp : Space) (bs : List Byte) (s : State) : (s.load sp bs).err = s.err := by
  simp [State.err]
@[simp] theorem State.load_isValid (sp : Space) (bs : List Byte) (s : State) (u : ValidBit) : (s.load sp bs).isValid u = s.isValid u := by
  simp [State.isValid]

end Sys2Proof.Machine
end

