-- ==== Sys2Proof/Laws/Appends.lean ====
section
/-! SUPPORT. What appending several bytes does, and the forward copy of a match (spec 20_memory R70, R82). -/

namespace Sys2Proof.Machine

@[simp] theorem State.setBuf_setBuf (sp : Space) (a b : Buf) (s : State) : (s.setBuf sp a).setBuf sp b = s.setBuf sp b := by
  cases sp <;> rfl

theorem State.setBuf_self (sp : Space) (s : State) : s.setBuf sp (s.buf sp) = s := by
  cases sp <;> rfl

/-- An append touches its buffer alone. -/
theorem append_frame {c : Config} {sp : Space} {b : Byte} {s t : State} (h : append c sp b s = .ok () t) :
    t = s.setBuf sp (t.buf sp) := by
  unfold append at h
  split at h
  · cases h
    simp [State.setLen, State.writeBytes]
  · cases h

/-- Everything an accepted list of appends does: the bytes stand behind the old ones, and nothing else changes. -/
theorem appendList_spec {c : Config} (hc : c.Bounded) {sp : Space} {bs : List Byte} {s t : State}
    (h : appendList c sp bs s = .ok () t) :
    t = s.setBuf sp (t.buf sp) ∧ t.len sp = s.len sp + bs.length ∧
      (∀ k, (hk : k < bs.length) → t.byte sp (s.len sp + k) = bs[k]) ∧
      (∀ a, a < s.len sp ∨ s.len sp + bs.length ≤ a → t.byte sp a = s.byte sp a) ∧
      (bs ≠ [] → t.len sp ≤ capacity c sp) := by
  induction bs generalizing s with
  | nil =>
    simp only [appendList, Res.ok.injEq, true_and] at h
    subst h
    exact ⟨(State.setBuf_self _ _).symm, rfl, fun k hk => absurd hk (by simp), fun _ _ => rfl, fun h => absurd rfl h⟩
  | cons b bs ih =>
    obtain ⟨⟨⟩, u, hu, ht⟩ := Res.bind_eq_ok.mp h
    obtain ⟨h1, h2, h3, h4, -⟩ := append_spec hc hu
    obtain ⟨i1, i2, i3, i4, i5⟩ := ih ht
    have hf := append_frame hu
    refine ⟨?_, by simp only [List.length_cons]; omega, ?_, ?_, fun _ => ?_⟩
    · rw [i1, hf]
      simp
    · intro k hk
      cases k with
      | zero =>
        rw [Nat.add_zero, i4 _ (by omega), h3]
        rfl
      | succ k =>
        have := i3 k (by simpa using hk)
        rw [show s.len sp + (k + 1) = u.len sp + k by omega, this]
        rfl
    · intro a ha
      simp only [List.length_cons] at ha
      rw [i4 a (by omega), h4 a (by omega)]
    · by_cases hb : bs = []
      · subst hb; simp at i2; omega
      · exact i5 hb

/-- With room for all of them the appends are accepted. -/
theorem appendList_ok {c : Config} (hc : c.Bounded) {sp : Space} {bs : List Byte} {s : State}
    (h : s.len sp + bs.length ≤ capacity c sp) : ∃ t, appendList c sp bs s = .ok () t := by
  induction bs generalizing s with
  | nil => exact ⟨s, rfl⟩
  | cons b bs ih =>
    simp only [List.length_cons] at h
    have hu := append_ok (c := c) (sp := sp) (s := s) b (by omega)
    have h2 := (append_spec hc hu).2.1
    obtain ⟨t, ht⟩ := ih (s := (s.writeBytes sp (s.len sp) [b]).setLen sp ((s.buf sp).len + 1#32)) (by omega)
    exact ⟨t, by rw [appendList, hu, Res.bind_ok, ht]⟩

/-- Everything an accepted copy of `n` bytes from `OUT:src` on does: each byte appended is the one as far back as `src` is, those
the copy itself appended among them (20_memory R82). -/
theorem copyOut_spec {c : Config} (hc : c.Bounded) {n src : Nat} {s t : State} (hsrc : src < s.len .out)
    (h : copyOut c n src s = .ok () t) :
    t = s.setBuf .out (t.buf .out) ∧ t.len .out = s.len .out + n ∧
      (∀ k, k < n → t.byte .out (s.len .out + k) = t.byte .out (src + k)) ∧
      (∀ a, a < s.len .out ∨ s.len .out + n ≤ a → t.byte .out a = s.byte .out a) := by
  induction n generalizing s src with
  | zero =>
    simp only [copyOut, Res.ok.injEq, true_and] at h
    subst h
    exact ⟨(State.setBuf_self _ _).symm, rfl, fun k hk => absurd hk (by omega), fun _ _ => rfl⟩
  | succ n ih =>
    obtain ⟨⟨⟩, u, hu, ht⟩ := Res.bind_eq_ok.mp h
    obtain ⟨h1, h2, h3, h4, -⟩ := append_spec hc hu
    obtain ⟨i1, i2, i3, i4⟩ := ih (src := src + 1) (by omega) ht
    refine ⟨?_, by omega, ?_, ?_⟩
    · rw [i1, append_frame hu]
      simp
    · intro k hk
      cases k with
      | zero =>
        rw [Nat.add_zero, Nat.add_zero, i4 (s.len .out) (by omega), h3, i4 src (by omega), h4 src (by omega)]
      | succ k =>
        have := i3 k (by omega)
        rw [show s.len .out + (k + 1) = u.len .out + k by omega, this, show src + (k + 1) = src + 1 + k by omega]
    · intro a ha
      rw [i4 a (by omega), h4 a (by omega)]

/-- With room for all bytes the copy is accepted. -/
theorem copyOut_ok {c : Config} (hc : c.Bounded) {n src : Nat} {s : State} (h : s.len .out + n ≤ capacity c .out) :
    ∃ t, copyOut c n src s = .ok () t := by
  induction n generalizing s src with
  | zero => exact ⟨s, rfl⟩
  | succ n ih =>
    have hu := append_ok (c := c) (sp := .out) (s := s) (s.byte .out src) (by omega)
    have h2 := (append_spec hc hu).2.1
    obtain ⟨t, ht⟩ := ih (src := src + 1)
      (s := (s.writeBytes .out (s.len .out) [s.byte .out src]).setLen .out ((s.buf .out).len + 1#32)) (by omega)
    exact ⟨t, by rw [copyOut, hu, Res.bind_ok, ht]⟩

end Sys2Proof.Machine
end

