-- ==== Sys2Proof/Laws/BitIo.lean ====
section
/-! SUPPORT. What one bit written or read does (spec 40_bitio R121, R123, R124, R128). -/

namespace Sys2Proof.Machine

/-- The current byte with one more bit in its next free place. -/
def withBit (s : State) (b : Bool) : Byte := s.bwCur ||| ((BitVec.ofBool b).setWidth 8 <<< (7 - s.bwCnt.toNat))

/-- A bit that does not complete the byte. -/
theorem bwWbit_room {c : Config} {b : Bool} {s : State} (ho : bwOpen c s = true) (hc : s.bwCnt ≠ 7#3) :
    bwWbit c b s = .ok () (s.setWriter (withBit s b) (s.bwCnt + 1#3)) := by
  rw [bwWbit, checked_pass ho (by simp)]
  simp [hc, withBit]

/-- The eighth bit appends the byte. -/
theorem bwWbit_full {c : Config} {b : Bool} {s : State} (ho : bwOpen c s = true) (hc : s.bwCnt = 7#3)
    (hl : s.len .flags < capacity c .flags) :
    bwWbit c b s = .ok () (((s.writeBytes .flags (s.len .flags) [withBit s b]).setLen .flags (s.flags.len + 1#32)).setWriter 0#8 0#3) := by
  rw [bwWbit, checked_pass ho (by simp)]
  simp only [if_pos hc]
  rw [append_ok _ hl]
  rfl

/-- The eighth bit is refused where the append would pass the capacity (20_memory R70). -/
theorem bwWbit_no_room {c : Config} {b : Bool} {s : State} (hc : s.bwCnt = 7#3) (hl : capacity c .flags ≤ s.len .flags) :
    bwWbit c b s = .refused := by
  by_cases ho : bwOpen c s = true
  · rw [bwWbit, checked_pass ho (by simp)]
    simp only [if_pos hc]
    rw [append_full _ hl]
    rfl
  · rw [bwWbit, checked_refuses (by simpa using ho)]

/-- A closed writer refuses (93_implementation_defined U1). -/
theorem bwWbit_closed {c : Config} {b : Bool} {s : State} (ho : bwOpen c s = false) : bwWbit c b s = .refused := by
  rw [bwWbit, checked_refuses ho]

/-- Everything `BW.WBIT` can do: with bit room or byte room it ends `ok`, else it refuses. -/
theorem bwWbit_cases (c : Config) (b : Bool) (s : State) :
    (bwOpen c s = true ∧ s.bwCnt ≠ 7#3 ∧ bwWbit c b s = .ok () (s.setWriter (withBit s b) (s.bwCnt + 1#3))) ∨
    (bwOpen c s = true ∧ s.bwCnt = 7#3 ∧ s.len .flags < capacity c .flags ∧ bwWbit c b s = .ok ()
      (((s.writeBytes .flags (s.len .flags) [withBit s b]).setLen .flags (s.flags.len + 1#32)).setWriter 0#8 0#3)) ∨ bwWbit c b s = .refused := by
  by_cases ho : bwOpen c s = true
  · by_cases hc : s.bwCnt = 7#3
    · by_cases hl : s.len .flags < capacity c .flags
      · exact .inr (.inl ⟨ho, hc, hl, bwWbit_full ho hc hl⟩)
      · exact .inr (.inr (bwWbit_no_room hc (by omega)))
    · exact .inl ⟨ho, hc, bwWbit_room ho hc⟩
  · exact .inr (.inr (bwWbit_closed (by simpa using ho)))

/-- One more flag bit fills place `7 - cnt` of the current byte and nothing else. -/
theorem withBit_bit {s : State} (h : s.WriterInv) (b : Bool) (j : Nat) :
    (withBit s b).getLsbD j = if j = 7 - s.bwCnt.toNat then b else s.bwCur.getLsbD j := by
  have hc := s.bwCnt.isLt
  have hb : ∀ i, ((BitVec.ofBool b).setWidth 8).getLsbD i = (decide (i = 0) && b) := by
    intro i
    cases b <;> simp
  rw [withBit, BitVec.getLsbD_or, BitVec.getLsbD_shiftLeft, hb]
  by_cases h1 : j = 7 - s.bwCnt.toNat
  · subst h1
    have : 7 - s.bwCnt.toNat < 8 := by omega
    rw [h (7 - s.bwCnt.toNat) (by omega)]
    simp [this]
  · rw [if_neg h1]
    by_cases h2 : j < 7 - s.bwCnt.toNat
    · simp [h2]
    · have : j - (7 - s.bwCnt.toNat) ≠ 0 := by omega
      simp [this]

/-- An appended flag byte adds its eight bits, most significant first. -/
theorem flagsBit_append {c : Config} (hc : c.Bounded) {s : State} (x : Byte) (hl : s.len .flags < capacity c .flags) (j : Nat) :
    ((s.writeBytes .flags (s.len .flags) [x]).setLen .flags (s.flags.len + 1#32)).flagsBit j =
      if j < 8 * s.len .flags then s.flagsBit j
      else if j < 8 * s.len .flags + 8 then x.getLsbD (7 - j % 8) else false := by
  have hcap := capacity_lt hc .flags
  have hlen : (s.flags.len + 1#32).toNat = s.len .flags + 1 := by
    have : s.len .flags = s.flags.len.toNat := rfl
    rw [BitVec.toNat_add, this]
    simp
    omega
  unfold State.flagsBit
  rw [State.setLen_len_same, hlen, State.setLen_byte, State.writeBytes_byte_same]
  by_cases h1 : j < 8 * s.len .flags
  · have h2 : j < 8 * (s.len .flags + 1) := by omega
    have h3 : ¬(s.len .flags ≤ j / 8 ∧ j / 8 < s.len .flags + [x].length) := by omega
    simp only [h1, h2, h3, dif_neg, not_false_eq_true, if_true, decide_true, Bool.true_and]
  · by_cases h2 : j < 8 * s.len .flags + 8
    · have h3 : s.len .flags ≤ j / 8 ∧ j / 8 < s.len .flags + [x].length := by simp; omega
      have h4 : j < 8 * (s.len .flags + 1) := by omega
      rw [dif_pos h3]
      simp [h1, h2, h4]
    · have h4 : ¬ j < 8 * (s.len .flags + 1) := by omega
      simp [h1, h2, h4]

/-- Writing a bit appends it to the bits the writer holds, and keeps the writer's invariant (40_bitio R121). -/
theorem bwWbit_writerBits {c : Config} (hc : c.Bounded) {b : Bool} {s t : State} (hw : s.WriterInv)
    (h : bwWbit c b s = .ok () t) : t.WriterInv ∧ t.writerBits = s.writerBits ++ [b] := by
  have hcnt := s.bwCnt.isLt
  rcases bwWbit_cases c b s with ⟨-, hne, heq⟩ | ⟨-, h7, hl, heq⟩ | heq
  · rw [heq] at h
    cases h
    have h7 : s.bwCnt.toNat ≠ 7 := fun hh => hne (BitVec.eq_of_toNat_eq hh)
    have hsucc : (s.bwCnt + 1#3).toNat = s.bwCnt.toNat + 1 := by
      rw [BitVec.toNat_add]
      simp
      omega
    constructor
    · intro j hj
      simp only [State.setWriter_bwCnt, State.setWriter_bwCur, hsucc] at hj ⊢
      rw [withBit_bit hw, if_neg (by omega)]
      exact hw j (by omega)
    · have hf : ∀ j, (s.setWriter (withBit s b) (s.bwCnt + 1#3)).flagsBit j = s.flagsBit j := by
        intro j
        simp [State.flagsBit]
      simp only [State.writerBits, State.setWriter_bwCnt, State.setWriter_bwCur, State.setWriter_len, hsucc, List.range_succ,
        List.map_append, List.map_cons, List.map_nil, List.append_assoc]
      rw [List.map_congr_left fun j _ => hf j, withBit_bit hw, if_pos rfl]
      congr 2
      apply List.map_congr_left
      intro k hk
      rw [List.mem_range] at hk
      rw [withBit_bit hw, if_neg (by omega)]
  · rw [heq] at h
    cases h
    have h7n : s.bwCnt.toNat = 7 := by rw [h7]; rfl
    have hf := flagsBit_append hc (withBit s b) hl
    have hlen : ((s.writeBytes .flags (s.len .flags) [withBit s b]).setLen .flags (s.flags.len + 1#32)).len .flags =
        s.len .flags + 1 := (append_spec hc (append_ok _ hl)).2.1
    generalize (s.writeBytes .flags (s.len .flags) [withBit s b]).setLen .flags (s.flags.len + 1#32) = u at hf hlen
    constructor
    · intro j _
      simp
    · have hfu : ∀ j, (u.setWriter 0#8 0#3).flagsBit j = u.flagsBit j := by
        intro j
        simp [State.flagsBit]
      simp only [State.writerBits, State.setWriter_bwCnt, State.setWriter_bwCur, State.setWriter_len, hlen, Nat.mul_add,
        Nat.mul_one, List.range_add, List.map_append, List.append_assoc, List.map_map, h7n]
      congr 1
      · apply List.map_congr_left
        intro k hk
        rw [List.mem_range] at hk
        rw [hfu, hf, if_pos hk]
      · have hbit : ∀ k, k < 8 → (u.setWriter 0#8 0#3).flagsBit (8 * s.len .flags + k) =
            if k = 7 then b else s.bwCur.getLsbD (7 - k) := by
          intro k hk
          rw [hfu, hf, if_neg (by omega), if_pos (by omega), withBit_bit hw]
          have h1 : (8 * s.len .flags + k) % 8 = k := by omega
          rw [h1, h7n]
          by_cases h2 : k = 7
          · simp [h2]
          · rw [if_neg (by omega), if_neg h2]
        simp only [List.range_succ, List.range_zero, List.map_append, List.map_nil, List.map_cons, List.nil_append,
          Function.comp_apply]
        rw [hbit 0 (by omega), hbit 1 (by omega), hbit 2 (by omega), hbit 3 (by omega), hbit 4 (by omega),
          hbit 5 (by omega), hbit 6 (by omega), hbit 7 (by omega)]
        simp
  · rw [heq] at h
    cases h

/-- `BW.FLUSH` with a partial byte. -/
theorem bwFlush_partial {c : Config} {s : State} (hc : s.bwCnt ≠ 0#3) (hl : s.len .flags < capacity c .flags) :
    bwFlush c s = .ok () ((((s.writeBytes .flags (s.len .flags) [s.bwCur]).setLen .flags (s.flags.len + 1#32)).setWriter 0#8 0#3).setFlushed true) := by
  unfold bwFlush
  rw [if_neg hc, append_ok _ hl]
  rfl

/-- A flag read inside the region: the bit, and the position advances (40_bitio R128). -/
theorem brRbit_inside {c : Config} {s : State} (hv : s.isValid .br = true) (hl : s.len .flags ≤ capacity c .flags)
    (hp : s.brPos.toNat < 8 * s.len .flags) :
    brRbit c s = .ok (s.flagsBit s.brPos.toNat) (s.setBrPos (s.brPos + 1#32)) := by
  rw [brRbit, checked_pass hv (by simpa using hl), if_pos hp, State.flagHere_eq]

/-- A flag read past the end: 0, and the position stays (40_bitio R128). -/
theorem brRbit_past {c : Config} {s : State} (hv : s.isValid .br = true) (hl : s.len .flags ≤ capacity c .flags)
    (hp : 8 * s.len .flags ≤ s.brPos.toNat) : brRbit c s = .ok false s := by
  rw [brRbit, checked_pass hv (by simpa using hl), if_neg (by omega)]

/-- Everything an accepted flag read does: it gives the flag bit at `BR.pos` and moves nothing but `BR.pos`. -/
theorem brRbit_spec {c : Config} (hc : c.Bounded) {s t : State} {b : Bool} (h : brRbit c s = .ok b t) :
    b = s.flagsBit s.brPos.toNat ∧ ∃ p : Word, t = s.setBrPos p ∧
      p.toNat = (if s.brPos.toNat < 8 * s.len .flags then s.brPos.toNat + 1 else s.brPos.toNat) := by
  rcases checked_cases c (s.isValid .br) [.flags] s
    (fun _ => if s.brPos.toNat < 8 * s.len .flags then .ok s.flagHere (s.setBrPos (s.brPos + 1#32)) else .ok false s)
    with h1 | h1 | ⟨hv, hl, -⟩
  · rw [brRbit, h1] at h; cases h
  · rw [brRbit, h1] at h; cases h
  · have hl : s.len .flags ≤ capacity c .flags := hl _ (by simp)
    by_cases hp : s.brPos.toNat < 8 * s.len .flags
    · rw [brRbit_inside hv hl hp] at h
      cases h
      refine ⟨rfl, _, rfl, ?_⟩
      have hb := hc.2
      simp only [capacity, ceilDiv8] at hl
      rw [if_pos hp, BitVec.toNat_add]
      simp
      omega
    · rw [brRbit_past hv hl (by omega)] at h
      cases h
      refine ⟨?_, _, rfl, ?_⟩
      · simp [State.flagsBit, hp]
      · rw [if_neg hp]

end Sys2Proof.Machine
end

