-- ==== Sys2Proof/Laws/Container.lean ====
section
/-! SUPPORT. Where the fields and the regions of an artifact stand (spec 44_container R212, 20_memory R66). -/

namespace Sys2Proof.Machine

@[simp] theorem State.contents_length (s : State) (sp : Space) : (s.contents sp).length = s.len sp := by
  simp [State.contents]

theorem State.contents_getElem (s : State) (sp : Space) (k : Nat) (h : k < (s.contents sp).length) :
    (s.contents sp)[k] = s.byte sp k := by
  simp [State.contents, State.bytes_getElem]

@[simp] theorem headerBytes_length (h : Header) : (headerBytes h).length = 24 := rfl

/-- The length of the artifact (44_container R216). -/
theorem packBytes_length (s : State) :
    (packBytes s).length = 24 + s.len .rans + s.len .flags + s.len .mtch + s.len .model := by
  simp [packBytes]
  omega

/-- The bytes of the artifact region by region (20_memory R66). -/
theorem packBytes_getElem? (s : State) :
    (∀ k, k < 24 → (packBytes s)[k]? = (headerBytes (packHeader s))[k]?) ∧
      (∀ k, k < s.len .rans → (packBytes s)[24 + k]? = some (s.byte .rans k)) ∧
      (∀ k, k < s.len .flags → (packBytes s)[24 + s.len .rans + k]? = some (s.byte .flags k)) ∧
      (∀ k, k < s.len .mtch → (packBytes s)[24 + s.len .rans + s.len .flags + k]? = some (s.byte .mtch k)) ∧
      (∀ k, k < s.len .model → (packBytes s)[24 + s.len .rans + s.len .flags + s.len .mtch + k]? = some (s.byte .model k)) := by
  have hget : ∀ sp k, k < s.len sp → (s.contents sp)[k]? = some (s.byte sp k) := by
    intro sp k hk
    rw [List.getElem?_eq_getElem (by simpa using hk), State.contents_getElem]
  refine ⟨fun k hk => ?_, fun k hk => ?_, fun k hk => ?_, fun k hk => ?_, fun k hk => ?_⟩
  · unfold packBytes
    rw [List.getElem?_append_left (by simp; omega), List.getElem?_append_left (by simp; omega),
      List.getElem?_append_left (by simp; omega), List.getElem?_append_left (by simp; omega)]
  · unfold packBytes
    rw [List.getElem?_append_left (by simp; omega), List.getElem?_append_left (by simp; omega),
      List.getElem?_append_left (by simp; omega), List.getElem?_append_right (by simp), ← hget _ k hk]
    congr 1
    simp
  · unfold packBytes
    rw [List.getElem?_append_left (by simp; omega), List.getElem?_append_left (by simp; omega),
      List.getElem?_append_right (by simp), ← hget _ k hk]
    congr 1
    simp
  · unfold packBytes
    rw [List.getElem?_append_left (by simp; omega), List.getElem?_append_right (by simp; omega), ← hget _ k hk]
    congr 1
    simp
    omega
  · unfold packBytes
    rw [List.getElem?_append_right (by simp; omega), ← hget _ k hk]
    congr 1
    simp
    omega

end Sys2Proof.Machine
end

