-- ==== Sys2Proof/Laws/Rans.lean ====
section
/-! SUPPORT. What the loops of the rANS coder do: the symbol lookup, renormalise-out, renormalise-in, and that the decoder's update
undoes the encoder's (spec 42_rans R162, R171, R172, R178). -/

namespace Sys2Proof.Machine

/-- The lookup stops at the first index whose interval ends above the slot (42_rans R171). -/
theorem lookupFrom_spec (cumAt : Nat → Nat) (slot : Nat) (fuel sym : Nat) :
    sym ≤ lookupFrom cumAt slot fuel sym ∧ lookupFrom cumAt slot fuel sym ≤ sym + fuel ∧
      (∀ i, sym ≤ i → i < lookupFrom cumAt slot fuel sym → cumAt (i + 1) ≤ slot) ∧
      (lookupFrom cumAt slot fuel sym < sym + fuel → slot < cumAt (lookupFrom cumAt slot fuel sym + 1)) := by
  induction fuel generalizing sym with
  | zero => simp only [lookupFrom]; exact ⟨le_rfl, le_rfl, fun i h1 h2 => absurd h2 (by omega), fun h => absurd h (by omega)⟩
  | succ fuel ih =>
    simp only [lookupFrom]
    split
    · rename_i h
      exact ⟨le_rfl, by omega, fun i h1 h2 => absurd h2 (by omega), fun _ => h⟩
    · rename_i h
      obtain ⟨h1, h2, h3, h4⟩ := ih (sym + 1)
      refine ⟨by omega, by omega, fun i hi hlt => ?_, fun hlt => h4 (by omega)⟩
      by_cases he : i = sym
      · subst he; omega
      · exact h3 i (by omega) hlt

/-- In a whole model the cumulative table never decreases. -/
theorem State.ModelOk.mono {s : State} (h : s.ModelOk) {i j : Nat} (hij : i ≤ j) (hj : j ≤ 256) : s.cumAt i ≤ s.cumAt j := by
  induction j with
  | zero => have : i = 0 := by omega
            subst this; exact le_rfl
  | succ j ih =>
    by_cases he : i = j + 1
    · subst he; exact le_rfl
    · have hstep := h.2.1 (BitVec.ofNat 8 j)
      have hj8 : (BitVec.ofNat 8 j).toNat = j := by simp; omega
      rw [hj8] at hstep
      have := ih (by omega) (by omega)
      omega

/-- In a whole model the lookup finds the symbol whose interval holds the slot (42_rans R171). -/
theorem State.lookup_spec {s : State} (h : s.ModelOk) {slot : Nat} (hs : slot < probScale) :
    s.cumAt (s.lookup slot).toNat ≤ slot ∧ slot < s.cumAt ((s.lookup slot).toNat + 1) := by
  obtain ⟨-, h2, h3, h4⟩ := lookupFrom_spec s.cumAt slot 255 0
  have hn : (s.lookup slot).toNat = lookupFrom s.cumAt slot 255 0 := by
    rw [State.lookup, BitVec.toNat_ofNat]
    exact Nat.mod_eq_of_lt (by omega)
  rw [hn]
  constructor
  · by_cases hz : lookupFrom s.cumAt slot 255 0 = 0
    · rw [hz, h.1]; omega
    · have := h3 (lookupFrom s.cumAt slot 255 0 - 1) (by omega) (by omega)
      have he : lookupFrom s.cumAt slot 255 0 - 1 + 1 = lookupFrom s.cumAt slot 255 0 := by omega
      rwa [he] at this
  · by_cases he : lookupFrom s.cumAt slot 255 0 < 255
    · exact h4 (by omega)
    · have : lookupFrom s.cumAt slot 255 0 = 255 := by omega
      rw [this, h.2.2]; exact hs

/-- The symbol whose interval holds a slot is unique (42_rans R171). -/
theorem State.ModelOk.unique {s : State} (h : s.ModelOk) {a b : Byte} {slot : Nat} (ha : s.cumAt a.toNat ≤ slot)
    (ha' : slot < s.cumAt (a.toNat + 1)) (hb : s.cumAt b.toNat ≤ slot) (hb' : slot < s.cumAt (b.toNat + 1)) : a = b := by
  have h1 := a.isLt
  have h2 := b.isLt
  apply BitVec.eq_of_toNat_eq
  by_contra hne
  rcases Nat.lt_or_gt_of_ne hne with hlt | hlt
  · have := h.mono (i := a.toNat + 1) (j := b.toNat) (by omega) (by omega)
    omega
  · have := h.mono (i := b.toNat + 1) (j := a.toNat) (by omega) (by omega)
    omega

/-- A frequency of a whole model is at most the scale, and its interval ends within it. -/
theorem State.ModelOk.freq_le {s : State} (h : s.ModelOk) (sym : Byte) : s.cumAt sym.toNat + s.freq sym ≤ probScale := by
  have h1 := sym.isLt
  have h2 := h.2.1 sym
  have h3 := h.mono (i := sym.toNat + 1) (j := 256) (by omega) le_rfl
  have h4 := h.2.2
  omega

/-- A model's lookup gives back the symbol whose slot it is asked for. -/
theorem State.lookup_eq {s : State} (h : s.ModelOk) {sym : Byte} {slot : Nat} (h1 : s.cumAt sym.toNat ≤ slot)
    (h2 : slot < s.cumAt sym.toNat + s.freq sym) : s.lookup slot = sym := by
  have hle := h.freq_le sym
  obtain ⟨h3, h4⟩ := State.lookup_spec h (slot := slot) (by omega)
  exact h.unique h3 h4 h1 (by rw [h.2.1]; omega)

/-- The slot of an updated state, and what is left above it (42_rans R162). -/
theorem encUpdate_slot {x f c : Nat} (hf : 1 ≤ f) (hc : c + f ≤ probScale) :
    encUpdate x f c % probScale = x % f + c ∧ encUpdate x f c / probScale = x / f := by
  have hm := Nat.mod_lt x hf
  have hr : x % f + c < probScale := by omega
  rw [encUpdate, Nat.mul_comm (x / f), Nat.add_assoc]
  constructor
  · rw [Nat.mul_add_mod, Nat.mod_eq_of_lt hr]
  · rw [Nat.mul_add_div (by decide), Nat.div_eq_of_lt hr, Nat.add_zero]

/-- The decoder's update undoes the encoder's (42_rans R178). -/
theorem decUpdate_encUpdate {x f c : Nat} (hf : 1 ≤ f) (hc : c + f ≤ probScale) :
    decUpdate (encUpdate x f c) f (encUpdate x f c % probScale) c = x := by
  obtain ⟨h1, h2⟩ := encUpdate_slot (x := x) hf hc
  rw [decUpdate, h1, Nat.shiftRight_eq_div_pow]
  change encUpdate x f c / probScale * f + (x % f + c) - c = x
  rw [h2, ← Nat.add_assoc, Nat.add_sub_cancel, Nat.mul_comm]
  exact Nat.div_add_mod x f

/-- Everything renormalise-in does: it shifts `k` bytes in, reading downward from the pointer, each while the state is below
`RANS_L`, and stops with the state at `RANS_L` or above or the pointer at 0 (42_rans R172). -/
theorem refill_spec (c : Config) (s : State) (ptr : Nat) (x : Word) :
    ∃ (k : Nat) (y : Nat → Word), y 0 = x ∧ k ≤ ptr ∧
      (∀ j, j < k → (y j).toNat < c.ransL ∧ y (j + 1) = (y j <<< 8) ||| (s.byte .rans (ptr - 1 - j)).setWidth 32) ∧
      (c.ransL ≤ (y k).toNat ∨ k = ptr) ∧ refill c s ptr x = (y k, ptr - k) := by
  induction ptr generalizing x with
  | zero => exact ⟨0, fun _ => x, rfl, le_rfl, fun j hj => absurd hj (by omega), .inr rfl, rfl⟩
  | succ ptr ih =>
    by_cases h : x.toNat < c.ransL
    · obtain ⟨k, y, h0, hk, hstep, hend, hr⟩ := ih ((x <<< 8) ||| (s.byte .rans ptr).setWidth 32)
      refine ⟨k + 1, fun j => match j with | 0 => x | j + 1 => y j, rfl, by omega, ?_, ?_, ?_⟩
      · intro j hj
        cases j with
        | zero => exact ⟨h, by simpa using h0⟩
        | succ j =>
          obtain ⟨h1, h2⟩ := hstep j (by omega)
          refine ⟨h1, ?_⟩
          rw [show ptr + 1 - 1 - (j + 1) = ptr - 1 - j by omega]
          exact h2
      · rcases hend with h1 | h1
        · exact .inl h1
        · exact .inr (by omega)
      · have he : ptr + 1 - (k + 1) = ptr - k := by omega
        simp only [refill, if_pos h, hr, he]
    · refine ⟨0, fun _ => x, rfl, by omega, fun j hj => absurd hj (by omega), .inl (Nat.le_of_not_lt h), ?_⟩
      simp [refill, h]

/-- Renormalise-in depends on the bytes of `RANS` below the pointer alone. -/
theorem refill_congr (c : Config) {s t : State} (ptr : Nat) (x : Word) (h : ∀ a, a < ptr → s.byte .rans a = t.byte .rans a) :
    refill c s ptr x = refill c t ptr x := by
  induction ptr generalizing x with
  | zero => rfl
  | succ ptr ih =>
    simp only [refill, h ptr (by omega)]
    split
    · exact ih _ fun a ha => h a (by omega)
    · rfl

/-- One round of renormalise-out. -/
theorem emitBytes_step {c : Config} {bound fuel : Nat} {s : State} (h : bound ≤ s.reState.toNat) :
    emitBytes c bound (fuel + 1) s =
      (append c .rans (s.reState.extractLsb' 0 8) s).bind fun _ s =>
        emitBytes c bound fuel (s.setReState (s.reState >>> 8)) := by
  simp [emitBytes, h]

theorem emitBytes_done {c : Config} {bound fuel : Nat} {s : State} (h : s.reState.toNat < bound) :
    emitBytes c bound fuel s = .ok () s := by
  cases fuel with
  | zero => rfl
  | succ fuel => have : ¬ bound ≤ s.reState.toNat := by omega
                 simp [emitBytes, this]

/-- Everything an accepted renormalise-out does, for a bound of at least 1: `k` bytes of the state are appended, low byte first, each
while the state is at the bound or above, and the state is shifted by as many (42_rans R162, R164). -/
theorem emitBytes_spec {c : Config} (hc : c.Bounded) {bound fuel : Nat} {s t : State}
    (h : emitBytes c bound fuel s = .ok () t) (hf : s.reState.toNat / 256 ^ fuel < bound) :
    ∃ k, k ≤ fuel ∧ (∀ j, j < k → bound ≤ s.reState.toNat / 256 ^ j) ∧ s.reState.toNat / 256 ^ k < bound ∧
      t.reState.toNat = s.reState.toNat / 256 ^ k ∧ t.len .rans = s.len .rans + k ∧
      (∀ j, j < k → (t.byte .rans (s.len .rans + j)).toNat = s.reState.toNat / 256 ^ j % 256) ∧
      (∀ a, a < s.len .rans ∨ s.len .rans + k ≤ a → t.byte .rans a = s.byte .rans a) ∧
      (∀ x, x ≠ Space.rans → t.buf x = s.buf x) := by
  induction fuel generalizing s with
  | zero =>
    simp only [emitBytes, Res.ok.injEq, true_and] at h
    subst h
    exact ⟨0, le_rfl, fun j hj => absurd hj (by omega), hf, by simp, rfl, fun j hj => absurd hj (by omega),
      fun _ _ => rfl, fun _ _ => rfl⟩
  | succ fuel ih =>
    by_cases hb : bound ≤ s.reState.toNat
    · rw [emitBytes_step hb] at h
      by_cases hl : s.len .rans < capacity c .rans
      · obtain ⟨u, hu⟩ : ∃ u, append c .rans (s.reState.extractLsb' 0 8) s = .ok () u := ⟨_, append_ok _ hl⟩
        obtain ⟨-, hlen, hbyte, hkeep, -⟩ := append_spec hc hu
        have hre : u.reState = s.reState ∧ ∀ x, x ≠ Space.rans → u.buf x = s.buf x := by
          rw [append_ok _ hl] at hu
          cases hu
          refine ⟨by simp, fun x hx => ?_⟩
          simp [State.setLen, State.writeBytes, hx]
        rw [hu, Res.bind_ok, hre.1] at h
        have hshift : (u.setReState (s.reState >>> 8)).reState.toNat = s.reState.toNat / 256 := by
          simp [Nat.shiftRight_eq_div_pow]
        have hpow : ∀ j, s.reState.toNat / 256 / 256 ^ j = s.reState.toNat / 256 ^ (j + 1) := by
          intro j
          rw [Nat.div_div_eq_div_mul, Nat.pow_succ, Nat.mul_comm]
        obtain ⟨k, hk, h1, h2, h3, h4, h5, h6, h7⟩ := ih h (by rw [hshift, hpow]; exact hf)
        simp only [hshift, hpow, State.setReState_len, State.setReState_byte, State.setReState_buf, hlen] at h1 h2 h3 h4 h5 h6 h7
        refine ⟨k + 1, by omega, ?_, h2, h3, by omega, ?_, ?_, ?_⟩
        · intro j hj
          cases j with
          | zero => simpa using hb
          | succ j => exact h1 j (by omega)
        · intro j hj
          cases j with
          | zero =>
            rw [Nat.add_zero, h6 _ (by omega), hbyte, byte_of_word]
            simp
          | succ j =>
            have := h5 j (by omega)
            rw [show s.len .rans + (j + 1) = s.len .rans + 1 + j by omega]
            exact this
        · intro a ha
          rw [h6 a (by omega)]
          exact hkeep a (by omega)
        · intro x hx
          rw [h7 x hx]
          exact hre.2 x hx
      · rw [append_full _ (by omega)] at h
        cases h
    · rw [emitBytes_done (by omega)] at h
      simp only [Res.ok.injEq, true_and] at h
      subst h
      exact ⟨0, by omega, fun j hj => absurd hj (by omega), by simpa using by omega, by simp, rfl,
        fun j hj => absurd hj (by omega), fun _ _ => rfl, fun _ _ => rfl⟩

/-- Four rounds empty a 32-bit state, so the loop's fuel is enough for every bound of at least 1. -/
theorem emitBytes_fuel (x : Word) {bound : Nat} (hb : 1 ≤ bound) : x.toNat / 256 ^ 4 < bound := by
  have := x.isLt
  have : x.toNat / 256 ^ 4 = 0 := by omega
  omega

end Sys2Proof.Machine
end

