-- ==== Sys2Proof/Laws/DecodeLoop.lean ====
section
/-! SUPPORT. The decode loop between its checks and its tokens (spec 45_orchestration R240, R243). -/

namespace Sys2Proof.Machine

/-- Once its checks pass, `DEC.STEP` takes the flag bit at `BR.pos`, moves `BR.pos` alone, and runs the token the bit announces. -/
theorem decStep_ready {c : Config} (hc : c.Bounded) {s : State} (hr : decReady s = true) (hm : decMore s = true)
    (hl : ∀ sp ∈ [Space.flags, .mtch, .rans, .out], s.len sp ≤ capacity c sp) :
    ∃ p : Word, p.toNat = (if s.brPos.toNat < 8 * s.len .flags then s.brPos.toNat + 1 else s.brPos.toNat) ∧
      decStep c s = match decodeToken (s.flagsBit s.brPos.toNat) s.recordHere with
        | .ok (.lit, _) => litToken c (s.setBrPos p)
        | .ok (.mtch dist len, _) => matchToken c dist len (s.setBrPos p)
        | .error _ => .raised .matchUnderflow (s.setBrPos p) := by
  have hv : s.isValid .br = true := by
    simp only [decReady, Bool.and_eq_true] at hr
    exact hr.1.1.1.2
  have hf := hl .flags (by simp)
  by_cases hp : s.brPos.toNat < 8 * s.len .flags
  · have hb := brRbit_inside hv hf hp
    obtain ⟨-, p, h1, h2⟩ := brRbit_spec hc hb
    refine ⟨p, h2, ?_⟩
    rw [decStep, checked_pass (by simp [hr, hm]) hl, hb, h1, Res.bind_ok]
    rfl
  · have hb := brRbit_past hv hf (by omega)
    refine ⟨s.brPos, by rw [if_neg hp], ?_⟩
    have hz : s.flagsBit s.brPos.toNat = false := by simp [State.flagsBit, hp]
    rw [decStep, checked_pass (by simp [hr, hm]) hl, hb, Res.bind_ok, hz]
    rfl

/-- The loop stops where its test fails. -/
theorem decLoop_stop {c : Config} {fuel : Nat} {s : State} (h : decMore s = false) : decLoop c fuel s = .ok () s := by
  cases fuel with
  | zero => rfl
  | succ fuel => simp [decLoop, h]

/-- One round of the loop. -/
theorem decLoop_step {c : Config} {fuel : Nat} {s : State} (h : decMore s = true) :
    decLoop c (fuel + 1) s = (decStep c s).bind fun _ s => decLoop c fuel s := by
  simp [decLoop, h]

/-- Under `DEC_OVERSHOOT = keep` the end of `DEC.RUN` does nothing (45_orchestration R242). -/
theorem decEnd_keep {c : Config} {s : State} (h : c.decOvershoot = .keep) : decEnd c s = s := by
  simp [decEnd, h]

/-- Under `DEC_OVERSHOOT = truncate` an output that has reached the original size ends with exactly that length
(93_implementation_defined U5). -/
theorem decEnd_truncate {c : Config} {s : State} (h : c.decOvershoot = .truncate) (hl : s.hdr.origSize.toNat ≤ s.len .out) :
    decEnd c s = s.setLen .out s.hdr.origSize := by
  unfold decEnd
  split
  · rfl
  · rename_i hn
    have he : s.out.len = s.hdr.origSize := by
      have : ¬ s.hdr.origSize.toNat < s.len .out := fun hlt => hn ⟨h, hlt⟩
      exact BitVec.eq_of_toNat_eq (Nat.le_antisymm (Nat.le_of_not_lt this) hl)
    rw [← he]
    rfl

/-- Where the storing stops but for a `DEC.RUN` that may cut the length back. -/
theorem storesUpTo_eq_len {i : Instr} {s : State} (t : State) (sp : Space)
    (h : i ≠ .decRun ∨ s.cfg.decOvershoot = .keep) : storesUpTo i s t sp = t.len sp := by
  unfold storesUpTo
  rcases h with h | h <;> simp [h]

end Sys2Proof.Machine
end

