-- ==== Sys2Proof/Laws/HostPort.lean ====
section
/-! SUPPORT. What a host read answers: above the scalar registers (spec 10_state R26), and in the buffers (R32). -/

namespace Sys2Proof.Machine

/-- Above the scalar registers a number reads an entry of a register file, or nothing. -/
theorem hostRead_of_ge {num : Nat} (s : State) (h : 0x21 ≤ num) :
    hostRead num s =
      if 0x100 ≤ num ∧ num < 0x200 then some (s.raw[num - 0x100]?.getD 0#32)
      else if 0x200 ≤ num ∧ num < 0x300 then some ((s.freqs[num - 0x200]?.getD 0#16).setWidth 32)
      else if 0x300 ≤ num ∧ num ≤ 0x400 then some ((s.cum[num - 0x300]?.getD 0#16).setWidth 32)
      else none := by
  unfold hostRead
  split <;> first | omega | rfl

theorem hostRead_raw (s : State) (i : Nat) (h : i < 256) : hostRead (0x100 + i) s = some s.raw[i] := by
  rw [hostRead_of_ge s (by omega), if_pos (by omega)]
  simp [h]

theorem hostRead_freqs (s : State) (i : Nat) (h : i < 256) : hostRead (0x200 + i) s = some (s.freqs[i].setWidth 32) := by
  rw [hostRead_of_ge s (by omega), if_neg (by omega), if_pos (by omega)]
  simp [h]

theorem hostRead_cum (s : State) (i : Nat) (h : i < 257) : hostRead (0x300 + i) s = some (s.cum[i].setWidth 32) := by
  rw [hostRead_of_ge s (by omega), if_neg (by omega), if_neg (by omega), if_pos (by omega)]
  simp [h]

/-- A byte of an output buffer below its length. -/
theorem hostReadByte_inside {sp : Space} {addr : Nat} {s : State} (h : sp = .art ∨ sp = .out) (hl : addr < s.len sp)
    (hc : addr < capacity s.cfg sp) : hostReadByte sp addr s = some (s.byte sp addr) :=
  if_pos ⟨h, Nat.lt_min.mpr ⟨hl, hc⟩⟩

/-- Anything else answers nothing. -/
theorem hostReadByte_outside {sp : Space} {addr : Nat} {s : State}
    (h : (sp ≠ .art ∧ sp ≠ .out) ∨ s.len sp ≤ addr ∨ capacity s.cfg sp ≤ addr) : hostReadByte sp addr s = none := by
  refine if_neg fun hp => ?_
  have hm := Nat.lt_min.mp hp.2
  rcases h with h | h | h
  · exact hp.1.elim h.1 h.2
  · omega
  · omega

end Sys2Proof.Machine
end

