-- ==== Sys2Proof/Laws/Lz77.lean ====
section
/-! SUPPORT. What the parser's search finds (spec 43_lz77 R192, R194, R195, R196). -/

namespace Sys2Proof.Machine

/-- The match length counted on from `l`: the run of equal bytes, bounded by the room and by the source's end at `p` (R194). -/
theorem matchLen_spec (byteAt : Nat → Byte) (i p room l : Nat) :
    l ≤ matchLen byteAt i p room l ∧ matchLen byteAt i p room l ≤ l + room ∧
      (∀ k, l ≤ k → k < matchLen byteAt i p room l → i + k < p ∧ byteAt (i + k) = byteAt (p + k)) ∧
      (matchLen byteAt i p room l < l + room →
        ¬(i + matchLen byteAt i p room l < p ∧
          byteAt (i + matchLen byteAt i p room l) = byteAt (p + matchLen byteAt i p room l))) := by
  induction room generalizing l with
  | zero =>
    simp only [matchLen]
    exact ⟨le_rfl, le_rfl, fun k h1 h2 => absurd h2 (by omega), fun h => absurd h (by omega)⟩
  | succ room ih =>
    simp only [matchLen]
    split
    · rename_i h
      obtain ⟨h1, h2, h3, h4⟩ := ih (l + 1)
      refine ⟨by omega, by omega, fun k hk hlt => ?_, fun hlt => h4 (by omega)⟩
      by_cases he : k = l
      · subst he; exact h
      · exact h3 k (by omega) hlt
    · rename_i h
      exact ⟨le_rfl, by omega, fun k h1 h2 => absurd h2 (by omega), fun _ => h⟩

/-- A common run within the bounds is no longer than the match length. -/
theorem le_matchLen {byteAt : Nat → Byte} {i p room l : Nat} (h1 : l ≤ room) (h2 : i + l ≤ p)
    (h3 : ∀ k, k < l → byteAt (i + k) = byteAt (p + k)) : l ≤ matchLen byteAt i p room 0 := by
  obtain ⟨-, -, -, h4⟩ := matchLen_spec byteAt i p room 0
  by_contra hc
  exact h4 (by omega) ⟨by omega, h3 _ (by omega)⟩

/-- A match of at least one byte lies entirely before `p` (R196). -/
theorem matchLen_before {byteAt : Nat → Byte} {i p room : Nat} (h : i ≤ p) : i + matchLen byteAt i p room 0 ≤ p := by
  obtain ⟨-, -, h3, -⟩ := matchLen_spec byteAt i p room 0
  by_cases hz : matchLen byteAt i p room 0 = 0
  · omega
  · have := (h3 (matchLen byteAt i p room 0 - 1) (by omega) (by omega)).1
    omega

/-- The search keeps the best so far or finds a strictly longer candidate, the earliest of the longest (R195). -/
theorem bestMatch_spec (byteAt : Nat → Byte) (p room count i : Nat) (best : Nat × Nat) :
    best.1 ≤ (bestMatch byteAt p room count i best).1 ∧
      (∀ j, i ≤ j → j < i + count → matchLen byteAt j p room 0 ≤ (bestMatch byteAt p room count i best).1) ∧
      (bestMatch byteAt p room count i best = best ∨
        (best.1 < (bestMatch byteAt p room count i best).1 ∧
          i ≤ (bestMatch byteAt p room count i best).2 ∧ (bestMatch byteAt p room count i best).2 < i + count ∧
          matchLen byteAt (bestMatch byteAt p room count i best).2 p room 0 = (bestMatch byteAt p room count i best).1 ∧
          ∀ j, i ≤ j → j < (bestMatch byteAt p room count i best).2 →
            matchLen byteAt j p room 0 < (bestMatch byteAt p room count i best).1)) := by
  induction count generalizing i best with
  | zero =>
    simp only [bestMatch]
    exact ⟨le_rfl, fun j h1 h2 => absurd h2 (by omega), .inl trivial⟩
  | succ count ih =>
    simp only [bestMatch]
    by_cases hb : best.1 < matchLen byteAt i p room 0
    · simp only [if_pos hb]
      obtain ⟨h1, h2, h3⟩ := ih (i + 1) (matchLen byteAt i p room 0, i)
      refine ⟨by omega, fun j hj hlt => ?_, .inr ?_⟩
      · by_cases he : j = i
        · subst he; exact h1
        · exact h2 j (by omega) (by omega)
      · rcases h3 with h3 | ⟨h3, h4, h5, h6, h7⟩
        · rw [h3]
          exact ⟨hb, le_rfl, by omega, rfl, fun j hj hlt => absurd hlt (by simp; omega)⟩
        · refine ⟨by omega, by omega, by omega, h6, fun j hj hlt => ?_⟩
          by_cases he : j = i
          · subst he; exact h3
          · exact h7 j (by omega) hlt
    · simp only [if_neg hb]
      obtain ⟨h1, h2, h3⟩ := ih (i + 1) best
      refine ⟨h1, fun j hj hlt => ?_, ?_⟩
      · by_cases he : j = i
        · subst he; omega
        · exact h2 j (by omega) (by omega)
      · rcases h3 with h3 | ⟨h3, h4, h5, h6, h7⟩
        · exact .inl h3
        · refine .inr ⟨h3, by omega, by omega, h6, fun j hj hlt => ?_⟩
          by_cases he : j = i
          · subst he; omega
          · exact h7 j (by omega) hlt

/-- Everything one search can find: no candidate, or the longest, the earliest among equals (R192, R195). -/
theorem searchAt_spec (s : State) :
    (∀ i l, s.Candidate i l → l ≤ (searchAt (s.byte .inp) (s.len .inp) s.lzP.toNat).1) ∧
      (1 ≤ (searchAt (s.byte .inp) (s.len .inp) s.lzP.toNat).1 → s.lzP.toNat ≤ s.len .inp →
        s.Candidate (searchAt (s.byte .inp) (s.len .inp) s.lzP.toNat).2 (searchAt (s.byte .inp) (s.len .inp) s.lzP.toNat).1 ∧
        ∀ i l, i < (searchAt (s.byte .inp) (s.len .inp) s.lzP.toNat).2 → s.Candidate i l →
          l < (searchAt (s.byte .inp) (s.len .inp) s.lzP.toNat).1) := by
  obtain ⟨-, h2, h3⟩ := bestMatch_spec (s.byte .inp) s.lzP.toNat (min (s.len .inp) (s.lzP.toNat + maxMatch) - s.lzP.toNat)
    (s.lzP.toNat - (s.lzP.toNat - window)) (s.lzP.toNat - window) (0, 0)
  have hle : ∀ i l, s.Candidate i l → s.lzP.toNat - window ≤ i ∧ i < s.lzP.toNat ∧ l ≤ matchLen (s.byte .inp) i s.lzP.toNat
      (min (s.len .inp) (s.lzP.toNat + maxMatch) - s.lzP.toNat) 0 := by
    rintro i l ⟨c1, c2, c3, c4, c5⟩
    exact ⟨c1, c2, le_matchLen (by omega) c4 c5⟩
  change (∀ i l, s.Candidate i l → l ≤ (bestMatch _ _ _ _ _ _).1) ∧ _
  constructor
  · intro i l hc
    obtain ⟨c1, c2, c3⟩ := hle i l hc
    exact c3.trans (h2 i c1 (by omega))
  · intro h1 hp
    change 1 ≤ (bestMatch _ _ _ _ _ _).1 at h1
    change s.Candidate (bestMatch _ _ _ _ _ _).2 (bestMatch _ _ _ _ _ _).1 ∧ ∀ i l, i < (bestMatch _ _ _ _ _ _).2 → _ → l < (bestMatch _ _ _ _ _ _).1
    rcases h3 with h3 | ⟨h3, h4, h5, h6, h7⟩
    · rw [h3] at h1
      exact absurd h1 (by decide)
    · have hlt : (bestMatch (s.byte .inp) s.lzP.toNat (min (s.len .inp) (s.lzP.toNat + maxMatch) - s.lzP.toNat)
          (s.lzP.toNat - (s.lzP.toNat - window)) (s.lzP.toNat - window) (0, 0)).2 < s.lzP.toNat := by omega
      obtain ⟨-, m2, m3, -⟩ := matchLen_spec (s.byte .inp) (bestMatch (s.byte .inp) s.lzP.toNat
        (min (s.len .inp) (s.lzP.toNat + maxMatch) - s.lzP.toNat)
        (s.lzP.toNat - (s.lzP.toNat - window)) (s.lzP.toNat - window) (0, 0)).2 s.lzP.toNat
        (min (s.len .inp) (s.lzP.toNat + maxMatch) - s.lzP.toNat) 0
      have m4 := matchLen_before (byteAt := s.byte .inp)
        (room := min (s.len .inp) (s.lzP.toNat + maxMatch) - s.lzP.toNat) hlt.le
      rw [h6] at m2 m3 m4
      refine ⟨⟨h4, hlt, by omega, m4, fun k hk => (m3 k (by omega) hk).2⟩, fun i l hi hc => ?_⟩
      obtain ⟨c1, c2, c3⟩ := hle i l hc
      exact lt_of_le_of_lt c3 (h7 i c1 hi)

/-- What a match is made of: within the window, 1 to 255 bytes, the source before `p` (R196). -/
theorem State.Candidate.bounds {s : State} {i l : Nat} (h : s.Candidate i l) :
    1 ≤ s.lzP.toNat - i ∧ s.lzP.toNat - i ≤ window ∧ l ≤ s.lzP.toNat - i ∧ l ≤ maxMatch ∧ s.lzP.toNat + l ≤ s.len .inp := by
  obtain ⟨h1, h2, h3, h4, -⟩ := h
  omega

end Sys2Proof.Machine
end

