-- ==== Sys2Proof/Laws/PerInstr.lean ====
section
/-! SUPPORT. Per instruction: the form of its words (spec 30_encoding R90, R92, R101), and what well-formedness asks of it. -/

namespace Sys2Proof.Laws.WordsForm

/-- A command's unit, bits 7:4 of its code, is one of the nine units, and its operation, bits 3:0, at most 4 (R101); a token is flag 0
with no record or flag 1 with a record of three bytes that holds a distance other than 0 exactly where it is well formed (R90,
R92, R103). -/
def Statement (i : Instr) : Prop :=
  match encode i with
  | .cmd code => (code.extractLsb' 4 4).toNat ≤ 8 ∧ (code.extractLsb' 0 4).toNat ≤ 4 ∧ wellFormed i = true
  | .token flag record =>
    record.length = (if flag then 3 else 0) ∧
      (wellFormed i = true ↔ flag = false ∨ record.take 2 ≠ [0#8, 0#8])

theorem lit : Statement .lit := ⟨rfl, by decide⟩

theorem matchTok (dist : Half) (len : Byte) : Statement (.matchTok dist len) := by
  refine ⟨rfl, ?_⟩
  have h : [dist.extractLsb' 0 8, dist.extractLsb' 8 8] = [0#8, 0#8] ↔ dist = 0#16 := by
    constructor
    · intro h
      simp only [List.cons.injEq, and_true] at h
      have h0 := congrArg BitVec.toNat h.1
      have h1 := congrArg BitVec.toNat h.2
      have hd := dist.isLt
      simp only [BitVec.extractLsb'_toNat, Nat.shiftRight_eq_div_pow, BitVec.toNat_ofNat] at h0 h1
      apply BitVec.eq_of_toNat_eq
      simp only [BitVec.toNat_ofNat]
      omega
    · intro h
      subst h
      rfl
  simp [wellFormed, bytesLe16, h]


theorem reset : Statement .reset := ⟨by decide, by decide, rfl⟩
theorem compress : Statement .compress := ⟨by decide, by decide, rfl⟩
theorem decompress : Statement .decompress := ⟨by decide, by decide, rfl⟩
theorem bwInit : Statement .bwInit := ⟨by decide, by decide, rfl⟩
theorem bwWbit : Statement .bwWbit := ⟨by decide, by decide, rfl⟩
theorem bwWbits : Statement .bwWbits := ⟨by decide, by decide, rfl⟩
theorem bwFlush : Statement .bwFlush := ⟨by decide, by decide, rfl⟩
theorem bwBytes : Statement .bwBytes := ⟨by decide, by decide, rfl⟩
theorem brInit : Statement .brInit := ⟨by decide, by decide, rfl⟩
theorem brRbit : Statement .brRbit := ⟨by decide, by decide, rfl⟩
theorem brRbits : Statement .brRbits := ⟨by decide, by decide, rfl⟩
theorem ssCount : Statement .ssCount := ⟨by decide, by decide, rfl⟩
theorem ssStore : Statement .ssStore := ⟨by decide, by decide, rfl⟩
theorem ssLoad : Statement .ssLoad := ⟨by decide, by decide, rfl⟩
theorem reInit : Statement .reInit := ⟨by decide, by decide, rfl⟩
theorem rePut : Statement .rePut := ⟨by decide, by decide, rfl⟩
theorem reFlush : Statement .reFlush := ⟨by decide, by decide, rfl⟩
theorem rdInit : Statement .rdInit := ⟨by decide, by decide, rfl⟩
theorem rdGet : Statement .rdGet := ⟨by decide, by decide, rfl⟩
theorem lzInit : Statement .lzInit := ⟨by decide, by decide, rfl⟩
theorem lzStep : Statement .lzStep := ⟨by decide, by decide, rfl⟩
theorem lzParse : Statement .lzParse := ⟨by decide, by decide, rfl⟩
theorem ctPack : Statement .ctPack := ⟨by decide, by decide, rfl⟩
theorem ctUnpack : Statement .ctUnpack := ⟨by decide, by decide, rfl⟩
theorem decInit : Statement .decInit := ⟨by decide, by decide, rfl⟩
theorem decStep : Statement .decStep := ⟨by decide, by decide, rfl⟩
theorem decRun : Statement .decRun := ⟨by decide, by decide, rfl⟩

end Sys2Proof.Laws.WordsForm
end

