-- ==== Sys2Proof/Laws/SymbolStats.lean ====
section
/-! SUPPORT. What building a model does: the tally, the scaling, the deficit, the cyclic walk of the excess, the prefix sums (spec
41_symbolstats R142 to R147). -/

namespace Sys2Proof.Machine

theorem tally_length (bs : List Byte) : (tally bs).length = 256 := by simp [tally]

theorem tally_getD (bs : List Byte) (i : Nat) (h : i < 256) : (tally bs).getD i 0 = bs.count (BitVec.ofNat 8 i) := by
  simp [tally, List.getD, h]

/-- The prefix sums of a list (41_symbolstats R146). -/
theorem prefixSums_getD (fs : List Nat) (acc i : Nat) (h : i ≤ fs.length) :
    (prefixSums acc fs).getD i 0 = acc + (fs.take i).sum := by
  induction fs generalizing acc i with
  | nil => have : i = 0 := by simpa using h
           subst this; simp [prefixSums]
  | cons f fs ih =>
    cases i with
    | zero => simp [prefixSums]
    | succ i =>
      rw [prefixSums, List.getD_cons_succ, ih _ _ (by simpa using h), List.take_succ_cons, List.sum_cons]
      omega

theorem prefixSums_succ (fs : List Nat) (acc i : Nat) (h : i < fs.length) :
    (prefixSums acc fs).getD (i + 1) 0 = (prefixSums acc fs).getD i 0 + fs.getD i 0 := by
  rw [prefixSums_getD _ _ _ (by omega), prefixSums_getD _ _ _ (by omega), List.sum_take_succ _ _ h,
    List.getD_eq_getElem _ _ h]
  omega

/-- A seen symbol keeps a frequency of at least 1, and no scaled value passes the scale (41_symbolstats R143). -/
theorem scaleFreq_bounds {n raw : Nat} (hr : raw ≤ n) :
    (raw = 0 → scaleFreq n raw = 0) ∧ (1 ≤ raw → 1 ≤ scaleFreq n raw) ∧ scaleFreq n raw ≤ probScale := by
  have hle : raw * probScale / n ≤ probScale := by
    by_cases hn : n = 0
    · subst hn; simp
    · rw [Nat.mul_comm]
      exact Nat.div_le_of_le_mul (by rw [Nat.mul_comm n]; exact Nat.mul_le_mul_left _ hr)
  unfold scaleFreq
  refine ⟨fun h => by simp [h], fun h => ?_, ?_⟩
  · rw [if_neg (by omega)]
    split
    · exact le_rfl
    · exact Nat.pos_of_ne_zero ‹_›
  · split
    · exact Nat.zero_le _
    · split
      · decide
      · exact hle

theorem sum_set (fs : List Nat) (i v : Nat) (h : i < fs.length) : (fs.set i v).sum + fs.getD i 0 = fs.sum + v := by
  induction fs generalizing i with
  | nil => simp at h
  | cons f fs ih =>
    cases i with
    | zero => simp; omega
    | succ i =>
      have := ih i (by simpa using h)
      simp only [List.set_cons_succ, List.sum_cons, List.getD_cons_succ]
      omega

theorem getD_set (fs : List Nat) (i v x : Nat) (h : i < fs.length) :
    (fs.set i v).getD x 0 = if x = i then v else fs.getD x 0 := by
  by_cases hx : x = i
  · subst hx; simp [List.getD, h]
  · simp [List.getD, hx, Ne.symm hx]

theorem sum_le_length (fs : List Nat) (h : ∀ x, x < fs.length → fs.getD x 0 ≤ 1) : fs.sum ≤ fs.length := by
  induction fs with
  | nil => simp
  | cons f fs ih =>
    have h0 := h 0 (by simp)
    have hr := ih fun x hx => by simpa using h (x + 1) (by simpa using hx)
    simp only [List.getD_cons_zero] at h0
    simp only [List.sum_cons, List.length_cons]
    omega

/-- What the walk leaves of an entry `v` it has visited `n` times: 1 is taken at each visit while the entry is above 1. -/
def taken (v n : Nat) : Nat := if v ≤ 1 then v else max 1 (v - n)

theorem taken_succ (v n : Nat) : taken v (n + 1) = if 1 < taken v n then taken v n - 1 else taken v n := by
  unfold taken
  split <;> split <;> omega

/-- The cyclic walk of the excess (41_symbolstats R145), from a list that is `g` after `k` full passes and one more visit of the
indices below `i`: it ends with the sum exactly at the scale, each entry having been visited the same number of times but for
the indices below some `j`, which were visited once more. `e` is the excess at the start. -/
theorem trimExcess_spec (g : Nat → Nat) (e fuel i t k : Nat) (fs : List Nat) (hlen : fs.length = 256) (hi : i < 256)
    (hsum : fs.sum = t) (ht : probScale ≤ t)
    (hfs : ∀ x, x < 256 → fs.getD x 0 = taken (g x) (k + if x < i then 1 else 0)) (hk : t + k ≤ probScale + e)
    (hpass : t + k + 1 ≤ probScale + e ∨ (∃ x, i ≤ x ∧ x < 256 ∧ 1 < fs.getD x 0) ∨ t = probScale)
    (hfuel : 256 * e ≤ fuel + 256 * k + i) :
    ∃ k' j, j < 256 ∧ (trimExcess fuel i t fs).length = 256 ∧ (trimExcess fuel i t fs).sum = probScale ∧
      ∀ x, x < 256 → (trimExcess fuel i t fs).getD x 0 = taken (g x) (k' + if x < j then 1 else 0) := by
  induction fuel generalizing i t k fs with
  | zero => exact ⟨k, i, hi, hlen, by rw [trimExcess]; omega, hfs⟩
  | succ fuel ih =>
    by_cases htl : probScale < t
    · have hcur := hfs i hi
      simp only [lt_irrefl, if_false, Nat.add_zero] at hcur
      -- the list after the visit of index `i`
      obtain ⟨t', fs', hrec, hlen', hsum', ht', htk, hget, hless⟩ : ∃ t' fs',
          trimExcess (fuel + 1) i t fs = trimExcess fuel ((i + 1) % nsym) t' fs' ∧ fs'.length = 256 ∧ fs'.sum = t' ∧
            probScale ≤ t' ∧ t' ≤ t ∧
            (∀ x, x < 256 → fs'.getD x 0 = taken (g x) (k + if x < i + 1 then 1 else 0)) ∧
            (t' + 1 ≤ t ∨ (t' = t ∧ fs.getD i 0 ≤ 1 ∧ fs' = fs)) := by
        by_cases h1 : 1 < fs.getD i 0
        · refine ⟨t - 1, fs.set i (fs.getD i 0 - 1), ?_, by simpa using hlen, ?_, by omega, by omega, ?_, .inl (by omega)⟩
          · rw [trimExcess, if_pos htl, if_pos h1]
          · have := sum_set fs i (fs.getD i 0 - 1) (by omega)
            omega
          · intro x hx
            rw [getD_set _ _ _ _ (by omega)]
            by_cases hxi : x = i
            · subst hxi
              rw [if_pos rfl, if_pos (by omega), taken_succ, if_pos (by omega), ← hcur]
            · rw [if_neg hxi, hfs x hx]
              by_cases hlt : x < i
              · rw [if_pos hlt, if_pos (by omega)]
              · rw [if_neg hlt, if_neg (by omega)]
        · refine ⟨t, fs, ?_, hlen, hsum, ht, le_rfl, ?_, .inr ⟨rfl, by omega, rfl⟩⟩
          · rw [trimExcess, if_pos htl, if_neg h1]
          · intro x hx
            by_cases hxi : x = i
            · subst hxi
              rw [if_pos (by omega), taken_succ, if_neg (by omega), ← hcur]
            · rw [hfs x hx]
              by_cases hlt : x < i
              · rw [if_pos hlt, if_pos (by omega)]
              · rw [if_neg hlt, if_neg (by omega)]
      rw [hrec]
      by_cases hend : i + 1 = 256
      · -- the pass is complete
        have hz : (i + 1) % nsym = 0 := by rw [hend]; rfl
        rw [hz]
        have hk' : t' + (k + 1) ≤ probScale + e := by
          rcases hless with h | ⟨h, h1, h2⟩
          · omega
          · rcases hpass with hp | ⟨x, hx1, hx2, hx3⟩ | hp
            · omega
            · have : x = i := by omega
              subst this; omega
            · omega
        refine ih 0 t' (k + 1) fs' hlen' (by omega) hsum' ht' ?_ hk' ?_ (by omega)
        · intro x hx
          rw [hget x hx, if_pos (by omega), if_neg (by omega)]
        · by_cases hex : ∃ x, 0 ≤ x ∧ x < 256 ∧ 1 < fs'.getD x 0
          · exact .inr (.inl hex)
          · exfalso
            have := sum_le_length fs' fun x hx => by
              by_contra hc
              exact hex ⟨x, by omega, by omega, by omega⟩
            have : probScale = 4096 := rfl
            omega
      · have hz : (i + 1) % nsym = i + 1 := Nat.mod_eq_of_lt (by change i + 1 < 256; omega)
        rw [hz]
        refine ih (i + 1) t' k fs' hlen' (by omega) hsum' ht' hget (by omega) ?_ (by omega)
        rcases hless with h | ⟨h, h1, h2⟩
        · exact .inl (by omega)
        · rcases hpass with hp | ⟨x, hx1, hx2, hx3⟩ | hp
          · exact .inl (by omega)
          · refine .inr (.inl ⟨x, ?_, hx2, by rw [h2]; exact hx3⟩)
            by_contra hc
            have : x = i := by omega
            subst this; omega
          · omega
    · have : t = probScale := by omega
      rw [trimExcess, if_neg htl]
      exact ⟨k, i, hi, hlen, by omega, hfs⟩

/-- The walk from the scaled frequencies on: it ends with the sum at the scale (41_symbolstats R145). -/
theorem trimExcess_start (fs : List Nat) (hlen : fs.length = 256) (ht : probScale ≤ fs.sum) :
    ∃ k j, j < 256 ∧ (trimExcess (nsym * (fs.sum - probScale)) 0 fs.sum fs).length = 256 ∧
      (trimExcess (nsym * (fs.sum - probScale)) 0 fs.sum fs).sum = probScale ∧
      ∀ x, x < 256 → (trimExcess (nsym * (fs.sum - probScale)) 0 fs.sum fs).getD x 0 =
        taken (fs.getD x 0) (k + if x < j then 1 else 0) := by
  refine trimExcess_spec (fun x => fs.getD x 0) (fs.sum - probScale) _ 0 fs.sum 0 fs hlen (by omega) rfl ht ?_ (by omega) ?_
    (by change 256 * _ ≤ 256 * _ + _ + _; omega)
  · intro x hx
    simp only [taken, Nat.not_lt_zero, if_false, Nat.add_zero, Nat.sub_zero]
    split <;> omega
  · by_cases he : fs.sum = probScale
    · exact .inr (.inr he)
    · refine .inr (.inl ?_)
      by_contra hc
      have := sum_le_length fs fun x hx => by
        by_contra h1
        exact hc ⟨x, by omega, by omega, by omega⟩
      have : probScale = 4096 := rfl
      omega

/-- The deficit goes to index 0 (41_symbolstats R144). -/
theorem addDeficit_spec (d : Nat) (fs : List Nat) (h : 1 ≤ fs.length) :
    (addDeficit d fs).length = fs.length ∧ (addDeficit d fs).sum = fs.sum + d ∧
      ∀ x, x < fs.length → (addDeficit d fs).getD x 0 = fs.getD x 0 + if x = 0 then d else 0 := by
  cases fs with
  | nil => simp at h
  | cons f fs =>
    refine ⟨rfl, by simp [addDeficit]; omega, fun x hx => ?_⟩
    cases x with
    | zero => simp [addDeficit]
    | succ x => simp [addDeficit]

/-- The frequencies of a non-empty input sum to the scale (41_symbolstats R147). -/
theorem normalise_sum (n : Nat) (raw : List Nat) (hn : 1 ≤ n) (hlen : raw.length = 256) :
    (normalise n raw).length = 256 ∧ (normalise n raw).sum = probScale := by
  unfold normalise
  rw [if_neg (by omega)]
  have hl : (raw.map (scaleFreq n)).length = 256 := by simpa using hlen
  by_cases ht : (raw.map (scaleFreq n)).sum < probScale
  · obtain ⟨h1, h2, -⟩ := addDeficit_spec (probScale - (raw.map (scaleFreq n)).sum) (raw.map (scaleFreq n)) (by omega)
    simp only [if_pos ht]
    exact ⟨by omega, by omega⟩
  · obtain ⟨k, j, -, h1, h2, -⟩ := trimExcess_start (raw.map (scaleFreq n)) hl (by omega)
    simp only [if_neg ht]
    exact ⟨h1, h2⟩

end Sys2Proof.Machine
end

