-- ==== Sys2Proof/Tests/Slice0.lean ====
section
/-! SUPPORT. Own tests: the well-formedness checks, words written out from spec 30_encoding, one or two steps per instruction with
results from spec 95_test_vectors (its section is named at each test), and a witness for the hypotheses of every obligation. -/

set_option maxRecDepth 100000
set_option Elab.async false

namespace Sys2Proof.Tests

open Sys2Proof.Machine

/-! ### Helpers -/

/-- The state after an outcome. -/
def after (o : Host.Outcome State Fault Refusal) : Option State :=
  match o with
  | .next t => some t
  | .fault _ => none
  | .refused _ => none

/-- The state an operation ends in, or the given one. -/
def endState (s : State) (r : Res Unit) : State :=
  match r with
  | .ok _ t => t
  | .raised _ t => t
  | .refused => s

/-- The document's constants with a small `N_MAX`. -/
def small (n : Nat) : Config := { Config.hw with nMax := n }

/-- Reset with a small `N_MAX`. -/
def base (n : Nat) : State := State.resetWith (small n)

/-- A model given by the frequencies of a few symbols. -/
def freqList (fs : List (Nat × Nat)) : List Nat := fs.foldl (fun l p => l.set p.1 p.2) (List.replicate 256 0)

/-- The model "ABC" of 95 section 2.3. -/
def modelM1 : List Nat := freqList [(0, 1), (0x41, 1365), (0x42, 1365), (0x43, 1365)]

/-- A header of the sizes given. -/
def header (orig rans flags mtch model : Nat) : List Byte :=
  headerBytes { magic := magicNumber, origSize := BitVec.ofNat 32 orig, ransSize := BitVec.ofNat 32 rans,
                flagsSize := BitVec.ofNat 32 flags, matchSize := BitVec.ofNat 32 mtch, modelSize := BitVec.ofNat 32 model }

/-- Cells with these bytes from address 0 on. -/
def cells (bs : List Byte) : Memory := (List.range bs.length).zip bs

/-- A model region in `MODEL` in which symbol 0 has the whole scale. -/
def oneSymbol : State :=
  { base 8 with model := { len := 512#32, mem := cells (0x00#8 :: 0x10#8 :: List.replicate 510 0x00#8), gen := 0 } }

/-- A decoder ready for tokens over a model of one symbol (95 section 2.6). -/
def ready (n orig : Nat) (flags mtch out : List Byte) : State :=
  { (((base n).load .flags flags).load .mtch mtch).load .out out with
    valid := 0x6D#8
    rdState := 65536#32
    hdr := { magic := magicNumber, origSize := BitVec.ofNat 32 orig, ransSize := 4#32, flagsSize := 0#32, matchSize := 0#32,
             modelSize := 512#32 } }.putModel (freqList [(0x61, 4096)])

/-! ### Well-formedness and decoding -/

/-- 30_encoding R103: a token has `1 <= distance`. -/
theorem test_ill_formed : wellFormed (.matchTok 0#16 3#8) = false ∧ wellFormed (.matchTok 1#16 0#8) = true := by decide

/-- 30_encoding R90, R92, R103: words of the tokens. -/
theorem test_decode_tokens :
    decode (.token false []) = .ok .lit ∧ decode (.token true [0x03#8, 0x00#8, 0x03#8]) = .ok (.matchTok 3#16 3#8) ∧
      decode (.token true [0x00#8, 0x80#8, 0x03#8]) = .ok (.matchTok 32768#16 3#8) ∧
      decode (.token true [0x01#8, 0x00#8]) = .error .matchUnderflow := by decide

/-- 30_encoding R100: the top level and the bit writer and reader. -/
theorem test_decode_top_bw_br :
    decode (.cmd 0x00#8) = .ok .reset ∧ decode (.cmd 0x01#8) = .ok .compress ∧ decode (.cmd 0x02#8) = .ok .decompress ∧
      decode (.cmd 0x10#8) = .ok .bwInit ∧ decode (.cmd 0x11#8) = .ok .bwWbit ∧ decode (.cmd 0x12#8) = .ok .bwWbits ∧
      decode (.cmd 0x13#8) = .ok .bwFlush ∧ decode (.cmd 0x14#8) = .ok .bwBytes ∧ decode (.cmd 0x20#8) = .ok .brInit ∧
      decode (.cmd 0x21#8) = .ok .brRbit ∧ decode (.cmd 0x22#8) = .ok .brRbits := by decide

/-- 30_encoding R100: the model and the coder. -/
theorem test_decode_ss_re_rd :
    decode (.cmd 0x30#8) = .ok .ssCount ∧ decode (.cmd 0x31#8) = .ok .ssStore ∧ decode (.cmd 0x32#8) = .ok .ssLoad ∧
      decode (.cmd 0x40#8) = .ok .reInit ∧ decode (.cmd 0x41#8) = .ok .rePut ∧ decode (.cmd 0x42#8) = .ok .reFlush ∧
      decode (.cmd 0x50#8) = .ok .rdInit ∧ decode (.cmd 0x51#8) = .ok .rdGet := by decide

/-- 30_encoding R100, R104: the parser, the container, the decode loop, and reserved codes. -/
theorem test_decode_lz_ct_dec :
    decode (.cmd 0x60#8) = .ok .lzInit ∧ decode (.cmd 0x61#8) = .ok .lzStep ∧ decode (.cmd 0x62#8) = .ok .lzParse ∧
      decode (.cmd 0x70#8) = .ok .ctPack ∧ decode (.cmd 0x71#8) = .ok .ctUnpack ∧ decode (.cmd 0x80#8) = .ok .decInit ∧
      decode (.cmd 0x81#8) = .ok .decStep ∧ decode (.cmd 0x82#8) = .ok .decRun ∧
      decode (.cmd 0x7F#8) = .error (.reservedCommand 0x7F#8) ∧ decode (.cmd 0x83#8) = .error (.reservedCommand 0x83#8) := by
  decide

/-- 95 section 4: the listing `LIT 0x61` / `MATCH 1, 5` assembles to `FLAGS = 40`, `MATCH = 01 00 05`. -/
theorem test_assemble : assemble [.lit, .mtch 1#16 5#8] = ([0x40#8], [0x01#8, 0x00#8, 0x05#8]) := by decide

/-- The host's numbering of the opcode table's bits. -/
theorem test_table_words :
    decodeTableWord 8 0x41 = some .rePut ∧ decodeTableWord 8 0x7F = none ∧
      decodeTableWord 32 0x03000301 = some (.matchTok 3#16 3#8) ∧ decodeTableWord 32 0 = some .lit := by decide

/-! ### Steps -/

/-- The first step after reset runs the instruction it is given. -/
theorem test_step_first :
    (after (step (State.reset.withFetchWord 8 0x13))).map (fun t => (t.cmd, t.status)) = some (0x13#8, 0x01#8) ∧
      (after (step (State.reset.withFetchWord 32 0))).map (fun t => (t.status, t.bytes .out 0 1)) = some (0x01#8, [0x00#8]) ∧
      (after (step (State.reset.withFetchWord 32 0x03000101))).map (fun t => (t.status, t.decMpos)) = some (0x41#8, 3#32) := by
  decide +kernel

/-- 95 section 2.7: `CMD <- 0x7F` is refused. -/
theorem test_step_reserved :
    (after (step { State.reset with pending := [.writeReg 0x00 0x7F#32] })).map (fun t => (t.status, t.cmd)) =
        some (0xC1#8, 0x7F#8) := by decide +kernel

/-- 60_exceptions R282: a write to a read-only register is ignored. -/
theorem test_step_read_only : step { State.reset with pending := [.writeReg 0x03 5#32] } = .next State.reset := rfl

/-- A number that 10_state R22 and R26 do not list is refused by name (log 9). -/
theorem test_step_no_such_register :
    step { State.reset with pending := [.writeReg 0x0F 5#32] } = .refused (.noSuchRegister 0x0F) := rfl

/-- 95 section 2.7: `RESET` after `EmptyInput`. -/
theorem test_reset :
    (after (exec .reset { State.reset with status := 0x51#8, inp := { State.reset.inp with len := 1#32 }, reState := 7#32 })).map
      (fun t => (t.status, t.inp.len, t.valid, t.reState)) = some (0x00#8, 0#32, 0x00#8, 65536#32) := by decide +kernel

/-- 40_bitio R122. -/
theorem test_bw_init :
    (after (exec .bwInit { (base 8).load .flags [0xFF#8] with bwCur := 0x80#8, bwCnt := 1#3 })).map
      (fun t => (t.bwCur, t.bwCnt, t.len .flags)) = some (0x00#8, 0#3, 0) := by decide +kernel

/-- 95 section 2.1: bits 0,0,0,1. -/
theorem test_bw_wbit :
    (after (exec .bwWbit { base 8 with bwCnt := 3#3, arg0 := 1#32 })).map (fun t => (t.bwCur, t.bwCnt, t.len .flags)) =
      some (0x10#8, 4#3, 0) := by decide +kernel

/-- 95 section 2.1: the eighth 1. -/
theorem test_bw_wbit_eighth :
    (after (exec .bwWbit { base 8 with bwCur := 0xFE#8, bwCnt := 7#3, arg0 := 1#32 })).map
      (fun t => (t.bwCur, t.bwCnt, t.bytes .flags 0 1)) = some (0x00#8, 0#3, [0xFF#8]) := by decide +kernel

/-- 95 section 2.1: `BW.WBITS 0x5, 3`, and `BW.WBITS 0, 33`. -/
theorem test_bw_wbits :
    (after (exec .bwWbits { base 8 with arg0 := 5#32, arg1 := 3#32 })).map (fun t => (t.bwCur, t.bwCnt)) =
        some (0xA0#8, 3#3) ∧
      (after (exec .bwWbits { base 8 with arg0 := 0#32, arg1 := 33#32 })).map (fun t => (t.status, t.bwCnt)) =
        some (0xC1#8, 0#3) := by decide +kernel

/-- 95 section 2.1: `BW.WBITS 0x1B5, 9` completes one byte, `DA`, and leaves the bit 1. -/
theorem test_bw_wbits_straddles :
    (after (exec .bwWbits { base 16 with arg0 := 0x1B5#32, arg1 := 9#32 })).map
      (fun t => (t.bytes .flags 0 1, t.bwCur, t.bwCnt)) = some ([0xDA#8], 0x80#8, 1#3) := by decide +kernel

/-- 95 section 2.1: the flush of 0,0,0,1, and of nothing. -/
theorem test_bw_flush :
    (after (exec .bwFlush { base 8 with bwCur := 0x10#8, bwCnt := 4#3 })).map (fun t => (t.bytes .flags 0 1, t.bwCnt)) =
        some ([0x10#8], 0#3) ∧
      (after (exec .bwFlush (base 8))).map (fun t => t.len .flags) = some 0 := by decide +kernel

/-- 95 section 2.1: a partial byte is not counted. -/
theorem test_bw_bytes :
    (after (exec .bwBytes { base 8 with bwCur := 0x80#8, bwCnt := 1#3, result := 9#32 })).map (fun t => t.result) =
      some 0#32 := by decide +kernel

/-- 40_bitio R127. -/
theorem test_br_init :
    (after (exec .brInit { base 8 with brPos := 5#32 })).map (fun t => (t.brPos, t.valid)) = some (0#32, 0x08#8) := by
  decide +kernel

/-- 95 section 2.1: `FLAGS = 10`, the fourth and the ninth read. -/
theorem test_br_rbit :
    (after (exec .brRbit { (base 8).load .flags [0x10#8] with valid := 0x08#8, brPos := 3#32 })).map
        (fun t => (t.result, t.brPos)) = some (1#32, 4#32) ∧
      (after (exec .brRbit { (base 8).load .flags [0x10#8] with valid := 0x08#8, brPos := 8#32, result := 1#32 })).map
        (fun t => (t.result, t.brPos)) = some (0#32, 8#32) := by decide +kernel

/-- 95 section 2.1: without `BR.INIT`. -/
theorem test_br_rbit_refused : (after (exec .brRbit (base 8))).map (fun t => t.status) = some 0xC1#8 := by decide +kernel

/-- 95 section 2.1: `FLAGS = A0`, three bits and twelve. -/
theorem test_br_rbits :
    (after (exec .brRbits { (base 8).load .flags [0xA0#8] with valid := 0x08#8, arg0 := 3#32 })).map
        (fun t => (t.result, t.brPos)) = some (5#32, 3#32) ∧
      (after (exec .brRbits { (base 8).load .flags [0xA0#8] with valid := 0x08#8, arg0 := 12#32 })).map
        (fun t => (t.result, t.brPos)) = some (0xA00#32, 8#32) := by decide +kernel

/-- 95 section 2.2: `IN = 41 41 42`. -/
theorem test_ss_count :
    (after (exec .ssCount ((base 8).load .inp [0x41#8, 0x41#8, 0x42#8]))).map
      (fun t => (t.freq 0x00#8, t.freq 0x41#8, t.freq 0x42#8, t.cumAt 0x42, t.cumAt 256)) =
      some (1, 2730, 1365, 2731, 4096) := by decide +kernel

/-- 41_symbolstats R145: the walk takes 1 from index 0, finds nothing above 1 until index 200, and comes round to index 0. -/
theorem test_ss_excess :
    let fs := freqList [(0, 2000), (200, 2099)]
    ((trimExcess 768 0 4099 fs).getD 0 0, (trimExcess 768 0 4099 fs).getD 200 0) = (1998, 2098) := by decide +kernel

/-- 95 section 1.2 S5: the model region of one symbol. -/
theorem test_ss_store :
    (after (exec .ssStore ((base 8).putModel (freqList [(0x58, 4096)])))).map (fun t => (t.len .model, t.status)) =
        some (512, 0x01#8) ∧
      ((modelBytes ((base 8).putModel (freqList [(0x58, 4096)]))).drop 0xAF).take 3 = [0x00#8, 0x00#8, 0x10#8] := by
  decide +kernel

/-- 95 section 2.2: the region of a whole scale on symbol 0 is loaded. -/
theorem test_ss_load :
    (after (exec .ssLoad oneSymbol)).map (fun t => (t.freq 0x00#8, t.freq 0x01#8, t.cumAt 0, t.cumAt 1, t.valid)) =
      some (4096, 0, 0, 4096, 0x01#8) := by decide +kernel

/-- 41_symbolstats R150: `MODEL_LEN = 511` is refused. -/
theorem test_ss_load_refused :
    (after (exec .ssLoad { base 8 with model := { Buf.fresh 0 with len := 511#32 } })).map (fun t => (t.status, t.valid)) =
      some (0xC1#8, 0x00#8) := by decide +kernel

/-- 42_rans R161. -/
theorem test_re_init :
    (after (exec .reInit { (base 8).load .rans [0x01#8] with reState := 7#32 })).map
      (fun t => (t.reState, t.len .rans, t.valid)) = some (65536#32, 0, 0x02#8) := by decide +kernel

/-- 95 section 2.3: `RE.PUT 0x43` and `RE.PUT 0x44` under M1. -/
theorem test_re_put :
    (after (exec .rePut { reInit (small 8) ((base 8).putModel modelM1) with arg0 := 0x43#32 })).map
        (fun t => (t.reState, t.len .rans)) = some (199355#32, 0) ∧
      (after (exec .rePut { reInit (small 8) ((base 8).putModel modelM1) with arg0 := 0x44#32 })).map
        (fun t => (t.status, t.reState)) = some (0xB1#8, 65536#32) := by decide +kernel

/-- 95 section 2.3: two bytes from one `RE.PUT`. -/
theorem test_re_put_two_bytes :
    (after (exec .rePut { (base 8).putModel (freqList [(0, 1), (1, 4095)]) with valid := 0x03#8, reState := 0x10000000#32 })).map
      (fun t => (t.reState, t.bytes .rans 0 2, t.len .rans)) = some (0x01000000#32, [0x00#8, 0x00#8], 2) := by decide +kernel

/-- 95 section 2.3: `RE.INIT`, `RE.FLUSH`. -/
theorem test_re_flush :
    (after (exec .reFlush (reInit (small 8) (base 8)))).map (fun t => (t.bytes .rans 0 4, t.len .rans, t.valid)) =
      some ([0x00#8, 0x00#8, 0x01#8, 0x00#8], 4, 0x00#8) := by decide +kernel

/-- 95 section 2.3: `RANS = D5 70 1B 00`, and three bytes. -/
theorem test_rd_init :
    (after (exec .rdInit ((base 8).load .rans [0xD5#8, 0x70#8, 0x1B#8, 0x00#8]))).map
        (fun t => (t.rdState, t.rdPtr, t.valid)) = some (1798357#32, 0#32, 0x04#8) ∧
      (after (exec .rdInit ((base 8).load .rans [0xD5#8, 0x70#8, 0x1B#8]))).map (fun t => t.status) = some 0xC1#8 := by
  decide +kernel

/-- 95 section 2.3: the first symbol under M1. -/
theorem test_rd_get :
    (after (exec .rdGet { (base 8).putModel modelM1 with valid := 0x05#8, rdState := 1798357#32 })).map
      (fun t => (t.result, t.rdState, t.rdPtr)) = some (0x41#32, 599447#32, 0#32) := by decide +kernel

/-- 95 section 2.3: a refill of one byte. -/
theorem test_rd_get_refill :
    (after (exec .rdGet { ((base 8).load .rans [0x10#8]).putModel (freqList [(0, 20), (1, 4076)]) with
      valid := 0x05#8, rdState := 10731536#32, rdPtr := 1#32 })).map (fun t => (t.result, t.rdState, t.rdPtr)) =
      some (0#32, 13418512#32, 0#32) := by decide +kernel

/-- 43_lz77 R191. -/
theorem test_lz_init :
    (after (exec .lzInit { (base 8).load .lit [0x01#8] with lzP := 5#32 })).map (fun t => (t.lzP, t.len .lit, t.valid)) =
      some (0#32, 0, 0x10#8) := by decide +kernel

/-- 95 program P1: the fourth step over "ABCABC". -/
theorem test_lz_step :
    (after (exec .lzStep { (base 8).load .inp [0x41#8, 0x42#8, 0x43#8, 0x41#8, 0x42#8, 0x43#8] with
      valid := 0x10#8, lzP := 3#32, bwCnt := 3#3 })).map (fun t => (t.bytes .mtch 0 3, t.lzP, t.bwCur, t.bwCnt)) =
      some ([0x03#8, 0x00#8, 0x03#8], 6#32, 0x10#8, 4#3) := by decide +kernel

/-- 43_lz77 R195: "abcXabcYabc" at 8, the earliest of equal candidates. -/
theorem test_lz_step_tie :
    (after (exec .lzStep { (base 16).load .inp
        [0x61#8, 0x62#8, 0x63#8, 0x58#8, 0x61#8, 0x62#8, 0x63#8, 0x59#8, 0x61#8, 0x62#8, 0x63#8] with
      valid := 0x10#8, lzP := 8#32 })).map (fun t => (t.bytes .mtch 0 3, t.lzP)) =
      some ([0x08#8, 0x00#8, 0x03#8], 11#32) := by decide +kernel

/-- 95 section 2.4: "ABABABAB". -/
theorem test_lz_parse :
    (after (exec .lzParse ((base 8).load .inp [0x41#8, 0x42#8, 0x41#8, 0x42#8, 0x41#8, 0x42#8, 0x41#8, 0x42#8]))).map
      (fun t => (t.contents .lit, t.contents .mtch, t.bwCur, t.bwCnt, t.lzP)) =
      some ([0x41#8, 0x42#8, 0x41#8, 0x42#8], [0x04#8, 0x00#8, 0x04#8], 0x08#8, 5#3, 8#32) := by decide +kernel

/-- 95 section 2.5: the S4 artifact. -/
theorem test_ct_pack :
    let s := { ((((base 8).load .rans [0xD5#8, 0x70#8, 0x1B#8, 0x00#8]).load .flags [0x10#8]).load .mtch
        [0x03#8, 0x00#8, 0x03#8]) with
      model := { Buf.fresh 0 with len := 512#32, mem := [(0, 0x01#8), (1, 0x00#8)] }, inp := { Buf.fresh 0 with len := 6#32 } }
    (after (exec .ctPack s)).map (fun t => (t.len .art, t.valid, t.hdr.origSize, t.hdr.modelSize)) =
        some (544, 0x20#8, 6#32, 512#32) ∧
      (packBytes s).take 34 =
      [0x4F#8, 0x44#8, 0x49#8, 0x4D#8, 0x06#8, 0x00#8, 0x00#8, 0x00#8, 0x04#8, 0x00#8, 0x00#8, 0x00#8,
        0x01#8, 0x00#8, 0x00#8, 0x00#8, 0x03#8, 0x00#8, 0x00#8, 0x00#8, 0x00#8, 0x02#8, 0x00#8, 0x00#8,
        0xD5#8, 0x70#8, 0x1B#8, 0x00#8, 0x10#8, 0x03#8, 0x00#8, 0x03#8, 0x01#8, 0x00#8] := by decide +kernel

/-- 95 section 2.5: `CT.PACK` while `BW.cnt = 4`. -/
theorem test_ct_pack_refused :
    (after (exec .ctPack { base 8 with model := { Buf.fresh 0 with len := 512#32 }, bwCnt := 4#3 })).map (fun t => t.status) = some 0xC1#8 := by
  decide +kernel

/-- 44_container R214: the header registers, the regions but the model, and the lengths. -/
theorem test_ct_unpack :
    let t := after (exec .ctUnpack ((base 8).load .art
      (header 6 4 1 3 512 ++ [0xD5#8, 0x70#8, 0x1B#8, 0x00#8, 0x10#8, 0x03#8, 0x00#8, 0x03#8, 0x01#8]) |>.setLen .art 544#32))
    t.map (fun t => (t.hdr.origSize, t.contents .rans, t.contents .flags)) =
        some (6#32, [0xD5#8, 0x70#8, 0x1B#8, 0x00#8], [0x10#8]) ∧
      t.map (fun t => (t.contents .mtch, t.len .model, t.valid, t.status)) =
        some ([0x03#8, 0x00#8, 0x03#8], 512, 0x20#8, 0x01#8) := by decide +kernel

/-- 95 section 2.5: ten bytes; a wrong magic. -/
theorem test_ct_unpack_faults :
    (after (exec .ctUnpack ((base 8).load .art (List.replicate 10 0x00#8)))).map (fun t => t.status) = some 0x81#8 ∧
      (after (exec .ctUnpack ((base 8).load .art (0x50#8 :: 0x44#8 :: 0x49#8 :: 0x4D#8 :: List.replicate 20 0x00#8)))).map
        (fun t => (t.status, t.hdr.magic)) = some (0x21#8, 0x4D494450#32) := by decide +kernel

/-- 45_orchestration R239, and an original size above `N_MAX`. -/
theorem test_dec_init :
    (after (exec .decInit { ready 8 6 [] [] [0x61#8] with decMpos := 3#32, valid := 0x20#8 })).map
        (fun t => (t.len .out, t.decMpos, t.valid)) = some (0, 0#32, 0x60#8) ∧
      (after (exec .decInit (ready 8 9 [] [] []))).map (fun t => t.status) = some 0xD1#8 := by decide +kernel

/-- 95 section 2.6: `MATCH 1,5` over `OUT = 61`, and `MatchUnderflow`. -/
theorem test_dec_step :
    (after (exec .decStep (ready 8 7 [0x80#8] [0x01#8, 0x00#8, 0x05#8] [0x61#8]))).map
        (fun t => (t.contents .out, t.decMpos, t.brPos)) = some (List.replicate 6 0x61#8, 3#32, 1#32) ∧
      (after (exec .decStep (ready 8 7 [0x80#8] [0x01#8, 0x00#8] [0x61#8]))).map (fun t => (t.status, t.decMpos, t.brPos)) =
        some (0x31#8, 0#32, 1#32) := by decide +kernel

/-- 95 section 2.6: three literals from zero-fill flags; nothing to do at `OUT_LEN = orig_size`. -/
theorem test_dec_run :
    (after (exec .decRun (ready 8 3 [] [] []))).map (fun t => (t.contents .out, t.brPos, t.status)) =
        some ([0x61#8, 0x61#8, 0x61#8], 0#32, 0x01#8) ∧
      (after (exec .decRun (ready 8 1 [0x80#8] [] [0x61#8]))).map (fun t => (t.status, t.brPos)) = some (0x01#8, 0#32) := by
  decide +kernel

/-- 95 section 2.6: `LIT` with `OUT` empty. -/
theorem test_lit :
    (after (exec .lit (ready 8 8 [0x00#8] [] []))).map (fun t => (t.contents .out, t.brPos, t.rdState, t.decMpos)) =
      some ([0x61#8], 1#32, 65536#32, 0#32) := by decide +kernel

/-- 95 section 2.6: `MATCH 2,5` over `OUT = 61 62`, and `InvalidDistance` for `03 00 03`. -/
theorem test_match :
    (after (exec (.matchTok 2#16 5#8) (ready 8 8 [0x80#8] [0x02#8, 0x00#8, 0x05#8] [0x61#8, 0x62#8]))).map
        (fun t => t.contents .out) = some [0x61#8, 0x62#8, 0x61#8, 0x62#8, 0x61#8, 0x62#8, 0x61#8] ∧
      (after (exec (.matchTok 3#16 3#8) (ready 8 8 [0x80#8] [0x03#8, 0x00#8, 0x03#8] [0x61#8, 0x62#8]))).map
        (fun t => (t.status, t.decMpos, t.brPos, t.len .out)) = some (0x41#8, 3#32, 1#32, 2) := by decide +kernel

/-- 95 section 1.2 S2: "A". -/
theorem test_compress :
    (after (exec .compress ((base 8).load .inp [0x41#8]))).map
      (fun t => (t.len .art, t.contents .rans, t.contents .flags, t.freq 0x41#8, t.status)) =
      some (541, [0x00#8, 0x00#8, 0x01#8, 0x00#8], [0x00#8], 4096, 0x01#8) := by decide +kernel

/-- 95 section 2.7: the empty input. -/
theorem test_compress_empty :
    (after (exec .compress (base 8))).map (fun t => (t.status, t.len .art, t.valid)) = some (0x51#8, 0, 0x00#8) := by
  decide +kernel

/-- 95 section 2.7 and 44_container R214: `DECOMPRESS` of ten bytes raises `Truncated` after the re-initialisation. -/
theorem test_decompress_truncated :
    (after (exec .decompress { (base 8).load .art (List.replicate 10 0x00#8) with valid := 0x7F#8, arg0 := 3#32 })).map
      (fun t => (t.status, t.valid, t.len .art, t.arg0)) = some (0x81#8, 0x00#8, 10, 3#32) := by decide +kernel

/-- 95 program P7: the six-byte counterexample to the round trip, from `DEC.RUN` on. -/
theorem test_dec_run_counterexample :
    (after (exec .decRun { (((ready 8 6 [0x00#8] [] []).load .rans [0x78#8, 0x5A#8, 0xB2#8, 0xB7#8, 0x00#8]).putModel
        (freqList [(0, 686), (1, 682), (2, 682), (3, 682), (4, 682), (5, 682)])) with
      rdState := 0x00B7B25A#32, rdPtr := 1#32 })).map (fun t => (t.contents .out, t.status, t.brPos, t.rdState, t.rdPtr)) =
      some ([0x00#8, 0x02#8, 0x05#8, 0x03#8, 0x00#8, 0x01#8], 0x01#8, 6#32, 0x00010402#32, 0#32) := by decide +kernel

/-! ### Witnesses: states and operands that meet the hypotheses of an obligation, one per clause -/

/-- A value read off the state after an outcome. -/
theorem next_of {α : Type} {o : Host.Outcome State Fault Refusal} {f : State → α} {v : α} (h : (after o).map f = some v) :
    ∃ t, o = .next t ∧ f t = v := by
  cases o with
  | next t => exact ⟨t, rfl, by simpa [after] using h⟩
  | fault _ => simp [after] at h
  | refused _ => simp [after] at h

/-- Whether an operation ends `ok` in a state with a property. -/
def okAnd (p : State → Bool) (r : Res Unit) : Bool :=
  match r with
  | .ok _ t => p t
  | .raised _ _ => false
  | .refused => false

theorem ok_of {p : State → Bool} {r : Res Unit} (h : okAnd p r = true) : ∃ t, r = .ok () t ∧ p t = true := by
  cases r with
  | ok a t => exact ⟨t, rfl, h⟩
  | raised _ _ => simp [okAnd] at h
  | refused => simp [okAnd] at h

/-- An empty buffer with this length register. -/
def lenBuf (n : Nat) : Buf := { Buf.fresh 0 with len := BitVec.ofNat 32 n }

/-- A model in which one symbol has the whole scale. -/
def oneModel : State := (base 8).putModel (freqList [(0x61, 4096)])

theorem oneModel_ok : oneModel.ModelOk := by
  unfold State.ModelOk
  decide +kernel

theorem witness_DecodeEncode : WellFormed (.matchTok 1#16 0#8) ∧ WellFormed (.matchTok 65535#16 255#8) ∧ WellFormed .decRun := by
  decide

theorem witness_StepRunsTheCommand :
    (let s := { State.reset with pending := [.writeReg 0x00 0x10#32] }
     s.pending = .writeReg 0x00 0x10#32 :: [] ∧ decode (.cmd ((0x10#32).setWidth 8)) = .ok .bwInit ∧ WellFormed .bwInit) ∧
      State.reset.pending = [] := by decide

theorem witness_ReservedCommandRefused :
    (∀ v ∈ [0x03#32, 0x7F#32, 0x83#32, 0xFF#32],
      ({ State.reset with pending := [.writeReg 0x00 v] }).pending = .writeReg 0x00 v :: []) ∧
      ∀ v ∈ [0x03#32, 0x7F#32, 0x83#32, 0xFF#32], ∀ i, encode i ≠ .cmd (v.setWidth 8) := by
  refine ⟨fun _ _ => rfl, fun v hv i => ?_⟩
  simp only [List.mem_cons, List.not_mem_nil, or_false] at hv
  rcases hv with rfl | rfl | rfl | rfl <;> cases i <;> simp [encode]

theorem witness_HostAccesses_registers :
    (∀ num ∈ [0x01, 0x02, 0x05, 0x06, 0x12, 0x19, 0x1D, 0x1E, 0x20],
      ({ State.reset with pending := [.writeReg num 5#32] }).pending = .writeReg num 5#32 :: []) ∧
    ∀ num ∈ [0x03, 0x04, 0x0E, 0x1F, 0x100, 0x2FF, 0x400],
      num ∉ [0x01, 0x02, 0x05, 0x06, 0x12, 0x19, 0x1D, 0x1E, 0x20] ∧
        (hostRead num { State.reset with pending := [.writeReg num 5#32] }).isSome = true := by decide

theorem witness_HostAccesses_bytes :
    let s := { base 8 with pending := [.writeByte .model 511#32 1#8] }
    s.pending = .writeByte .model 511#32 1#8 :: [] ∧ Space.model ≠ .out ∧ (511#32).toNat < capacity s.cfg .model := by decide

theorem witness_HostReads :
    (∀ num ∈ [0x00, 0x0F, 0x14, 0x17, 0x21, 0xFF, 0x401],
      num = 0x00 ∨ num = 0x0F ∨ (0x14 ≤ num ∧ num ≤ 0x17) ∨ (0x21 ≤ num ∧ num ≤ 0xFF) ∨ 0x401 ≤ num) ∧
      ∀ num ∈ [0x01, 0x02, 0x05, 0x06, 0x12, 0x19, 0x1D, 0x1E, 0x20],
        ({ State.reset with pending := [.writeReg num 5#32] }).pending = .writeReg num 5#32 :: [] := by decide

theorem witness_HostReads_bytes :
    (let s := { base 2 with art := lenBuf 3, out := lenBuf 300 }
     (∀ sp ∈ [Space.art, .out], sp ∈ [Space.art, .out] ∧ 2 < s.len sp ∧ 2 < capacity s.cfg sp) ∧
       s.len .art ≤ 3 ∧ (255 < s.len .out ∧ 255 < capacity s.cfg .out) ∧ capacity s.cfg .out ≤ 256 ∧
       Space.inp ∉ [Space.art, .out]) ∧
      (let s := { base 2 with art := lenBuf 3, pending := [.writeByte .art 2#32 0x5A#8] }
       s.pending = .writeByte .art 2#32 0x5A#8 :: [] ∧ (2#32).toNat < s.len .art ∧ (2#32).toNat < capacity s.cfg .art) := by
  decide +kernel

/-- 00_scope R10: the host reads the bytes of `OUT` below `OUT_LEN`, and no byte of `LIT`. -/
theorem test_host_read_byte :
    let s := ((base 8).load .out [0x61#8, 0x62#8]).load .lit [0x63#8]
    hostReadByte .out 1 s = some 0x62#8 ∧ hostReadByte .out 2 s = none ∧ hostReadByte .lit 0 s = none := by decide +kernel

theorem witness_ParametersConstant : ∃ t, step State.reset = .next t := ⟨_, rfl⟩

theorem witness_ErrorsAreSticky : ({ base 8 with status := 0x51#8 }).err ≠ 0#4 ∧ Instr.compress ≠ .reset := by decide

theorem witness_OnlyListedErrorCodes :
    ∃ t, step { State.reset with status := 0xD1#8 } = .next t ∧
      ({ State.reset with status := 0xD1#8 }).err ∈ [0#4, 2#4, 3#4, 4#4, 5#4, 8#4, 9#4, 10#4, 11#4, 12#4, 13#4] :=
  ⟨_, rfl, by decide⟩

theorem witness_RefusalChangesOnlyStatus :
    (base 8).err = 0#4 ∧ ∃ t, exec .rdGet (base 8) = .next t ∧ t.err = 12#4 :=
  ⟨by decide, next_of (f := State.err) (by decide +kernel)⟩

theorem witness_PlainCommands :
    (∀ s ∈ [{ base 8 with flags := lenBuf 1 }, { base 8 with flags := lenBuf 2 }], s.err = 0#4) ∧
      ({ base 8 with flags := lenBuf 1 }).len .flags ≤ capacity (small 8) .flags ∧
      capacity (small 8) .flags < ({ base 8 with flags := lenBuf 2 }).len .flags := by decide

theorem witness_BwWbitResult :
    (let s := { base 16 with bwCnt := 6#3 }; s.err = 0#4 ∧ bwOpen s.cfg s = true ∧ s.bwCnt ≠ 7#3) ∧
    (let s := { base 16 with bwCnt := 7#3, flags := lenBuf 1 }
     s.err = 0#4 ∧ bwOpen s.cfg s = true ∧ s.bwCnt = 7#3 ∧ s.cfg.Bounded ∧ s.len .flags < capacity s.cfg .flags) ∧
    (let s := { base 16 with bwCnt := 7#3, flags := lenBuf 2 }
     s.err = 0#4 ∧ s.bwCnt = 7#3 ∧ capacity s.cfg .flags ≤ s.len .flags) ∧
    (let s := { base 16 with bwFlushed := true, cfg := { small 16 with bwWriteAfterFlush := .refuse } }
     s.err = 0#4 ∧ bwOpen s.cfg s = false) := by decide

theorem witness_BwWbitsResult :
    (let s := { base 32 with bwCnt := 1#3, bwCur := 0x80#8, arg1 := 31#32 }
     s.err = 0#4 ∧ s.WriterInv ∧ bwOpen s.cfg s = true ∧ s.cfg.Bounded ∧ s.arg1.toNat ≤ 32 ∧
       (s.bwCnt.toNat + s.arg1.toNat) / 8 = 4 ∧ s.len .flags + 4 ≤ capacity s.cfg .flags) ∧
    (let s := { base 32 with bwCnt := 5#3, arg1 := 2#32, flags := lenBuf 9 }
     s.err = 0#4 ∧ s.WriterInv ∧ bwOpen s.cfg s = true ∧ s.cfg.Bounded ∧ s.arg1.toNat ≤ 32 ∧
       (s.bwCnt.toNat + s.arg1.toNat) / 8 = 0) ∧
    (let s := { base 32 with bwCnt := 1#3, arg1 := 31#32, flags := lenBuf 1 }
     s.err = 0#4 ∧ s.cfg.Bounded ∧ s.arg1.toNat ≤ 32 ∧ (s.bwCnt.toNat + s.arg1.toNat) / 8 = 4 ∧
       capacity s.cfg .flags < s.len .flags + 4) ∧
    (let s := { base 32 with bwFlushed := true, cfg := { small 32 with bwWriteAfterFlush := .refuse } }
     s.err = 0#4 ∧ bwOpen s.cfg s = false) ∧
    (let s := { base 32 with arg1 := 33#32 }; s.err = 0#4 ∧ 32 < s.arg1.toNat) := by
  unfold State.WriterInv
  decide

theorem witness_BwFlushResult :
    (let s := base 16; s.err = 0#4 ∧ s.bwCnt = 0#3) ∧
    (let s := { base 16 with bwCnt := 1#3, flags := lenBuf 1 }
     s.err = 0#4 ∧ s.bwCnt ≠ 0#3 ∧ s.cfg.Bounded ∧ s.len .flags < capacity s.cfg .flags) ∧
    (let s := { base 16 with bwCnt := 1#3, flags := lenBuf 2 }
     s.err = 0#4 ∧ s.bwCnt ≠ 0#3 ∧ capacity s.cfg .flags ≤ s.len .flags) := by decide

theorem witness_BrRbitResult :
    (let s := { base 8 with valid := 0x08#8, flags := lenBuf 1, brPos := 7#32 }
     s.err = 0#4 ∧ s.isValid .br = true ∧ s.len .flags ≤ capacity s.cfg .flags ∧ s.brPos.toNat < 8 * s.len .flags) ∧
    (let s := { base 8 with valid := 0x08#8, flags := lenBuf 1, brPos := 8#32 }
     s.err = 0#4 ∧ s.isValid .br = true ∧ s.len .flags ≤ capacity s.cfg .flags ∧ 8 * s.len .flags ≤ s.brPos.toNat) ∧
    (base 8).err = 0#4 ∧ (base 8).isValid .br = false := by decide

theorem witness_BrRbitsResult :
    (let s := { base 8 with valid := 0x08#8, flags := lenBuf 1, brPos := 3#32, arg0 := 32#32 }
     s.err = 0#4 ∧ s.isValid .br = true ∧ s.cfg.Bounded ∧ s.len .flags ≤ capacity s.cfg .flags ∧ s.arg0.toNat ≤ 32) ∧
    (let s := { base 8 with valid := 0x08#8, arg0 := 33#32 }; s.err = 0#4 ∧ (s.isValid .br = false ∨ 32 < s.arg0.toNat)) ∧
    ((base 8).err = 0#4 ∧ ((base 8).isValid .br = false ∨ 32 < (base 8).arg0.toNat)) := by decide

theorem witness_BitOrderRoundTrip :
    (small 16).Bounded ∧
      ceilDiv8 [true, false, true, true, false, true, true, true, true].length ≤ capacity (small 16) .flags := by decide

theorem witness_SsCountResult :
    (let s := { base 8 with inp := lenBuf 8 }; s.err = 0#4 ∧ s.len .inp ≤ s.cfg.nMax) ∧
    (let s := base 8; s.err = 0#4 ∧ s.len .inp ≤ s.cfg.nMax ∧ s.len .inp = 0) ∧
    (let s := { base 8 with inp := lenBuf 9 }; s.err = 0#4 ∧ s.cfg.nMax < s.len .inp) := by decide

theorem witness_ModelSum :
    let s := (base 1).load .inp [0x41#8]
    s.err = 0#4 ∧ 1 ≤ s.len .inp ∧ s.len .inp ≤ s.cfg.nMax ∧ 1 ≤ s.inputCount 0x41#8 := by decide +kernel

theorem witness_DeficitAndExcess_deficit :
    let s := (base 3).load .inp [0x41#8, 0x42#8, 0x43#8]
    s.err = 0#4 ∧ 1 ≤ s.len .inp ∧ s.len .inp ≤ s.cfg.nMax ∧ sumSymbols s.scaled ≤ 4096 := by decide +kernel

theorem load_len (sp : Space) (bs : List Byte) (s : State) (h : bs.length < 2 ^ 32) : (s.load sp bs).len sp = bs.length := by
  unfold State.load State.setLen State.len
  rw [State.setBuf_buf_same]
  simp only [BitVec.toNat_ofNat]
  omega

/-- The counts of an input given as a list. -/
theorem inputCount_load (s : State) (bs : List Byte) (h : bs.length < 2 ^ 32) (sym : Byte) :
    (s.load .inp bs).inputCount sym = bs.count sym := by
  have hl : (s.load .inp bs).len .inp = bs.length := load_len .inp bs s h
  unfold State.inputCount
  rw [hl, ← List.countP_eq_length_filter]
  have hr : bs = (List.range bs.length).map fun i => bs.getD i 0#8 := by
    apply List.ext_getElem?
    intro i
    by_cases hi : i < bs.length
    · simp [hi]
    · simp [hi]
  conv_rhs => rw [hr, List.count, List.countP_map]
  apply List.countP_congr
  intro i hi
  have hi : i < bs.length := by simpa using hi
  simp [State.load_byte_same, hi]

/-- An input whose scaled frequencies exceed the scale for `n = 8190`: two rare symbols are forced to 1. -/
def rareInput (n : Nat) : List Byte := List.replicate n 0x00#8 ++ [0x01#8, 0x02#8]

theorem rareInput_length (n : Nat) : (rareInput n).length = n + 2 := by simp [rareInput]

theorem rareInput_count (n : Nat) (sym : Byte) :
    (rareInput n).count sym = if sym = 0#8 then n else if sym = 1#8 then 1 else if sym = 2#8 then 1 else 0 := by
  unfold rareInput
  rw [List.count_append, List.count_replicate]
  by_cases h0 : sym = 0#8
  · subst h0; simp
  · by_cases h1 : sym = 1#8
    · subst h1; simp
    · by_cases h2 : sym = 2#8
      · subst h2; simp
      · have e0 : (0#8 == sym) = false := by simpa using fun h => h0 h.symm
        have e1 : (1#8 == sym) = false := by simpa using fun h => h1 h.symm
        have e2 : (2#8 == sym) = false := by simpa using fun h => h2 h.symm
        simp [h0, h1, h2, List.count_cons, e0, e1, e2]

theorem rareInput_len : ((base 8192).load .inp (rareInput 8190)).len .inp = 8192 := by
  rw [load_len _ _ _ (by rw [rareInput_length]; decide), rareInput_length]

theorem rareInput_sum : sumSymbols ((base 8192).load .inp (rareInput 8190)).scaled = 4097 := by
  have hc : ((base 8192).load .inp (rareInput 8190)).scaled =
      fun sym => if sym = 0#8 then 4095 else if sym = 1#8 then 1 else if sym = 2#8 then 1 else 0 := by
    funext sym
    unfold State.scaled
    rw [rareInput_len, inputCount_load _ _ (by rw [rareInput_length]; decide), rareInput_count]
    by_cases h0 : sym = 0#8
    · subst h0; decide
    · by_cases h1 : sym = 1#8
      · subst h1; decide
      · by_cases h2 : sym = 2#8
        · subst h2; decide
        · rw [if_neg h0, if_neg h1, if_neg h2, if_pos rfl, if_neg h0]
  rw [hc]
  decide +kernel

theorem witness_DeficitAndExcess_excess :
    let s := (base 8192).load .inp (rareInput 8190)
    s.err = 0#4 ∧ 1 ≤ s.len .inp ∧ s.len .inp ≤ s.cfg.nMax ∧ 4096 < sumSymbols s.scaled := by
  refine ⟨?_, by rw [rareInput_len]; decide, ?_, by rw [rareInput_sum]; decide⟩
  · unfold State.err; rw [State.load_status]; decide
  · rw [rareInput_len, State.load_cfg]; decide

theorem witness_SsStoreResult :
    (oneModel.err = 0#4 ∧ oneModel.isValid .ss = true) ∧ (base 8).err = 0#4 ∧ (base 8).isValid .ss = false := by decide +kernel

/-- The frequencies of a region that is zero but for its second byte. -/
theorem regionFreq_single (s : State) (sp : Space) (o : Nat) (b : Byte)
    (h : ∀ k, k < 512 → s.byte sp (o + k) = if k = 1 then b else 0#8) :
    s.regionFreq sp o = fun sym => if sym = 0#8 then 256 * b.toNat else 0 := by
  funext sym
  have hs : sym.toNat < 256 := sym.isLt
  unfold State.regionFreq
  rw [h _ (by omega), Nat.add_assoc, h _ (by omega), if_neg (by omega)]
  by_cases h0 : sym = 0#8
  · subst h0; simp
  · have : sym.toNat ≠ 0 := fun e => h0 (BitVec.eq_of_toNat_eq (by simpa using e))
    rw [if_neg (by omega), if_neg h0]
    rfl

/-- A region that is zero but for its second byte. -/
def single (b : Byte) : List Byte := 0x00#8 :: b :: List.replicate 510 0x00#8

/-- A buffer that holds a list of bytes and, behind it, such a region. -/
def withRegion (sp : Space) (front : List Byte) (b : Byte) (s : State) : State := s.load sp (front ++ single b)

theorem withRegion_sum (sp : Space) (front : List Byte) (b : Byte) (s : State) :
    (withRegion sp front b s).regionFreq sp front.length = fun sym => if sym = 0#8 then 256 * b.toNat else 0 := by
  apply regionFreq_single
  intro k hk
  have hl : front.length + k < (front ++ single b).length := by simp [single]; omega
  unfold withRegion
  rw [State.load_byte_same, dif_pos hl, List.getElem_append_right (by omega)]
  simp only [Nat.add_sub_cancel_left]
  match k, hk with
  | 0, _ => rfl
  | 1, _ => rfl
  | k + 2, hk =>
    show (List.replicate 510 0x00#8)[k]'_ = _
    rw [List.getElem_replicate, if_neg (by omega)]

theorem witness_SsLoadResult_ok :
    let s := withRegion .model [] 0x10#8 (base 8)
    s.err = 0#4 ∧ s.len .model = 512 ∧ sumSymbols (s.regionFreq .model 0) = 4096 := by
  refine ⟨by decide +kernel, by decide +kernel, ?_⟩
  have h := withRegion_sum .model [] 0x10#8 (base 8)
  rw [List.length_nil] at h
  rw [h]
  decide +kernel

theorem witness_SsLoadResult_stops :
    (let s := withRegion .model [] 0x00#8 (base 8)
     s.err = 0#4 ∧ s.len .model = 512 ∧ sumSymbols (s.regionFreq .model 0) ≠ 4096) ∧
      (base 8).err = 0#4 ∧ (base 8).len .model ≠ 512 := by
  refine ⟨⟨by decide +kernel, by decide +kernel, ?_⟩, by decide, by decide⟩
  have h := withRegion_sum .model [] 0x00#8 (base 8)
  rw [List.length_nil] at h
  rw [h]
  decide +kernel

theorem witness_RePutResult :
    (let s := { oneModel with valid := 0x03#8, arg0 := 0x61#32, rans := lenBuf 21 }
     s.err = 0#4 ∧ s.isValid .re = true ∧ s.isValid .ss = true ∧ 1 ≤ s.freq (BitVec.ofNat 8 s.arg0.toNat) ∧
       s.reState.toNat < s.freq (BitVec.ofNat 8 s.arg0.toNat) * 2 ^ s.cfg.encBoundShift ∧ s.cfg.encBoundShift + 12 ≤ 32) ∧
    (let s := { oneModel with valid := 0x03#8, arg0 := 0x61#32, reState := 0x80000000#32, rans := lenBuf 19 }
     s.err = 0#4 ∧ s.isValid .re = true ∧ s.isValid .ss = true ∧ 1 ≤ s.freq (BitVec.ofNat 8 s.arg0.toNat) ∧
       s.freq (BitVec.ofNat 8 s.arg0.toNat) * 2 ^ s.cfg.encBoundShift ≤ s.reState.toNat ∧
       s.reState.toNat / 256 < s.freq (BitVec.ofNat 8 s.arg0.toNat) * 2 ^ s.cfg.encBoundShift ∧
       s.cfg.Bounded ∧ s.len .rans + 1 ≤ capacity s.cfg .rans) ∧
    (let s := { oneModel with valid := 0x03#8, arg0 := 0x61#32, reState := 0x80000000#32, rans := lenBuf 20 }
     s.err = 0#4 ∧ s.isValid .re = true ∧ s.isValid .ss = true ∧ 1 ≤ s.freq (BitVec.ofNat 8 s.arg0.toNat) ∧
       s.freq (BitVec.ofNat 8 s.arg0.toNat) * 2 ^ s.cfg.encBoundShift ≤ s.reState.toNat ∧
       s.cfg.Bounded ∧ capacity s.cfg .rans < s.len .rans + 1) ∧
    (let s := { oneModel with valid := 0x03#8, arg0 := 0x62#32 }
     s.err = 0#4 ∧ s.isValid .re = true ∧ s.isValid .ss = true ∧ s.freq (BitVec.ofNat 8 s.arg0.toNat) = 0) ∧
    (oneModel.err = 0#4 ∧ (oneModel.isValid .re = false ∨ oneModel.isValid .ss = false)) := by decide +kernel

theorem witness_ReFlushResult :
    (let s := { base 8 with valid := 0x02#8, rans := lenBuf 16 }
     s.err = 0#4 ∧ s.isValid .re = true ∧ s.cfg.Bounded ∧ s.len .rans + 4 ≤ capacity s.cfg .rans) ∧
    ((base 8).err = 0#4 ∧ (base 8).isValid .re = false) ∧
    (let s := { base 8 with valid := 0x02#8, rans := lenBuf 17 }
     s.err = 0#4 ∧ s.cfg.Bounded ∧ capacity s.cfg .rans < s.len .rans + 4) := by decide

theorem witness_RdInitResult :
    (let s := { base 8 with rans := lenBuf 4 }; s.err = 0#4 ∧ 4 ≤ s.len .rans ∧ s.len .rans ≤ capacity s.cfg .rans) ∧
    (let s := { base 8 with rans := lenBuf 3 }; s.err = 0#4 ∧ s.len .rans < 4) := by decide

theorem witness_RdGetResult :
    (let s := { oneModel with valid := 0x05#8, rans := lenBuf 20 }
     s.err = 0#4 ∧ s.isValid .rd = true ∧ s.isValid .ss = true ∧ s.ModelOk ∧ s.len .rans ≤ capacity s.cfg .rans) ∧
    (oneModel.err = 0#4 ∧ (oneModel.isValid .rd = false ∨ oneModel.isValid .ss = false ∨ oneModel.cumAt 256 ≠ 4096)) ∧
    (let s := { base 8 with valid := 0x05#8 }
     s.err = 0#4 ∧ (s.isValid .rd = false ∨ s.isValid .ss = false ∨ s.cumAt 256 ≠ 4096)) :=
  ⟨⟨by decide +kernel, by decide +kernel, by decide +kernel, oneModel_ok, by decide +kernel⟩, by decide +kernel, by decide⟩

theorem witness_ReversalWithoutRenormalisation :
    (small 8).Bounded ∧ (small 8).ransL ≤ 2 ^ 24 ∧ (small 8).encBoundShift + 12 ≤ 32 ∧ oneModel.isValid .ss = true ∧
      oneModel.ModelOk ∧ (∀ sym ∈ [0x61#8, 0x61#8], 1 ≤ oneModel.freq sym) ∧
      ∃ t, putAll (small 8) [0x61#8, 0x61#8] (reInit (small 8) oneModel) = .ok () t ∧ t.len .rans = 0 := by
  refine ⟨by decide, by decide, by decide, by decide +kernel, oneModel_ok, by decide +kernel, ?_⟩
  have h : okAnd (fun t => decide (t.len .rans = 0)) (putAll (small 8) [0x61#8, 0x61#8] (reInit (small 8) oneModel)) = true := by
    decide +kernel
  obtain ⟨t, h1, h2⟩ := ok_of h
  exact ⟨t, h1, by simpa using h2⟩

theorem witness_ReversalUnderRenormConsistent :
    (∀ c ∈ [{ small 8 with ransL := 2 ^ 23 }, { small 8 with encBoundShift := 12 }],
      c.Bounded ∧ c.RenormConsistent ∧ c.ransL % 4096 = 0 ∧ [0x61#8, 0x61#8].length ≤ c.nMax) ∧
      oneModel.isValid .ss = true ∧ oneModel.ModelOk ∧ ∀ sym ∈ [0x61#8, 0x61#8], 1 ≤ oneModel.freq sym :=
  ⟨by decide, by decide +kernel, oneModel_ok, by decide +kernel⟩

/-- A parser at position 3 of "ABCABC", with one byte of room for the flags. -/
def parserAt3 : State :=
  { (base 6).load .inp [0x41#8, 0x42#8, 0x43#8, 0x41#8, 0x42#8, 0x43#8] with
    valid := 0x10#8, lzP := 3#32, bwCnt := 7#3, mtch := lenBuf 3 }

theorem witness_LzStepResult_match :
    parserAt3.err = 0#4 ∧ parserAt3.isValid .lz = true ∧ parserAt3.lzP.toNat < parserAt3.len .inp ∧
      parserAt3.len .inp ≤ parserAt3.cfg.nMax ∧ parserAt3.cfg.Bounded ∧ bwOpen parserAt3.cfg parserAt3 = true ∧
      parserAt3.WriterInv ∧ (parserAt3.bwCnt ≠ 7#3 ∨ parserAt3.len .flags < capacity parserAt3.cfg .flags) ∧
      parserAt3.Candidate 0 3 ∧ 3 ≤ 3 ∧ (∀ i' l', parserAt3.Candidate i' l' → l' ≤ 3) ∧
      (∀ i' l', i' < 0 → parserAt3.Candidate i' l' → l' < 3) ∧
      parserAt3.len .mtch + 3 ≤ capacity parserAt3.cfg .mtch := by
  refine ⟨by decide +kernel, by decide +kernel, by decide +kernel, by decide +kernel, by decide +kernel, by decide +kernel,
    by unfold State.WriterInv; decide +kernel, by decide +kernel, by unfold State.Candidate; decide +kernel, Nat.le_refl 3,
    ?_, fun _ _ h => absurd h (Nat.not_lt_zero _), by decide +kernel⟩
  intro i l h
  have h1 : parserAt3.lzP.toNat = 3 := by decide +kernel
  have h2 := h.2.1
  have h3 := h.2.2.2.1
  omega

theorem witness_LzStepResult_literal :
    let s := { (base 6).load .inp [0x41#8, 0x42#8] with valid := 0x10#8, lzP := 1#32, lit := lenBuf 5 }
    s.err = 0#4 ∧ s.isValid .lz = true ∧ s.lzP.toNat < s.len .inp ∧ s.len .inp ≤ s.cfg.nMax ∧ s.cfg.Bounded ∧
      bwOpen s.cfg s = true ∧ s.WriterInv ∧ (s.bwCnt ≠ 7#3 ∨ s.len .flags < capacity s.cfg .flags) ∧
      (∀ i l, s.Candidate i l → l < 3) ∧ s.len .lit < capacity s.cfg .lit := by
  refine ⟨by decide +kernel, by decide +kernel, by decide +kernel, by decide +kernel, by decide +kernel, by decide +kernel,
    by unfold State.WriterInv; decide +kernel, by decide +kernel, ?_, by decide +kernel⟩
  intro i l h
  have h2 := h.2.1
  have h3 := h.2.2.2.1
  simp only [show (1#32).toNat = 1 from rfl] at h2 h3
  omega

theorem witness_LzStepResult_no_room :
    (∀ s ∈ [{ parserAt3 with flags := lenBuf 1 },
        { parserAt3 with bwFlushed := true, cfg := { small 6 with bwWriteAfterFlush := .refuse } }],
      s.err = 0#4 ∧ s.isValid .lz = true ∧ s.lzP.toNat < s.len .inp ∧ s.len .inp ≤ s.cfg.nMax ∧
        (bwOpen s.cfg s = false ∨ (s.bwCnt = 7#3 ∧ capacity s.cfg .flags ≤ s.len .flags))) ∧
    (let s := { parserAt3 with mtch := lenBuf 4 }
     s.err = 0#4 ∧ s.isValid .lz = true ∧ s.lzP.toNat < s.len .inp ∧ s.len .inp ≤ s.cfg.nMax ∧ s.Candidate 0 3 ∧ 3 ≤ 3 ∧
       s.cfg.Bounded ∧ capacity s.cfg .mtch < s.len .mtch + 3) ∧
    (let s := { parserAt3 with lzP := 1#32, lit := lenBuf 6 }
     s.err = 0#4 ∧ s.isValid .lz = true ∧ s.lzP.toNat < s.len .inp ∧ s.len .inp ≤ s.cfg.nMax ∧
       (∀ i l, s.Candidate i l → l < 3) ∧ capacity s.cfg .lit ≤ s.len .lit) := by
  refine ⟨by decide +kernel, by unfold State.Candidate; decide +kernel, by decide +kernel, by decide +kernel, by decide +kernel,
    by decide +kernel, ?_, by decide +kernel⟩
  intro i l h
  have h2 := h.2.1
  have h3 := h.2.2.2.1
  simp only [show (1#32).toNat = 1 from rfl] at h2 h3
  omega

theorem witness_LzStepResult_refused :
    (let s := { base 6 with inp := lenBuf 1 }; s.err = 0#4 ∧ (s.isValid .lz = false ∨ s.len .inp ≤ s.lzP.toNat)) ∧
    (let s := { base 6 with inp := lenBuf 1, valid := 0x10#8, lzP := 1#32 }
     s.err = 0#4 ∧ (s.isValid .lz = false ∨ s.len .inp ≤ s.lzP.toNat)) := by decide

theorem witness_LzParseResult :
    (let s := { base 16 with inp := lenBuf 16, flags := lenBuf 0, bwCnt := 7#3 }
     s.err = 0#4 ∧ s.len .inp ≤ s.cfg.nMax ∧ s.cfg.Bounded ∧ bwOpen s.cfg s = true ∧
       s.len .flags + (s.bwCnt.toNat + s.len .inp) / 8 ≤ capacity s.cfg .flags) ∧
    (let s := { base 16 with inp := lenBuf 17 }; s.err = 0#4 ∧ s.cfg.nMax < s.len .inp) := by decide

theorem witness_ParserReproducesInput :
    let s := (base 6).load .inp [0x41#8, 0x42#8, 0x43#8, 0x41#8, 0x42#8, 0x43#8]
    s.err = 0#4 ∧ s.len .inp ≤ s.cfg.nMax ∧ s.cfg.Bounded ∧ bwOpen s.cfg s = true ∧ s.len .flags = 0 ∧ s.bwCnt = 0#3 ∧
      s.bwCur = 0#8 := by decide +kernel

theorem witness_CtPackResult :
    (let s := { base 8 with model := lenBuf 512, rans := lenBuf 20, flags := lenBuf 1, mtch := lenBuf 8 }
     s.err = 0#4 ∧ s.len .model = 512 ∧ s.bwCnt = 0#3 ∧ s.isValid .re = false ∧ s.cfg.Bounded ∧
       s.len .rans ≤ capacity s.cfg .rans ∧ s.len .flags ≤ capacity s.cfg .flags ∧ s.len .mtch ≤ capacity s.cfg .mtch) ∧
    (∀ s ∈ [{ base 8 with model := lenBuf 511 }, { base 8 with model := lenBuf 512, bwCnt := 4#3 },
        { base 8 with model := lenBuf 512, valid := 0x02#8 }],
      s.err = 0#4 ∧ (s.len .model ≠ 512 ∨ s.bwCnt ≠ 0#3 ∨ s.isValid .re = true)) := by decide

/-- An artifact of this length whose header has these fields. -/
def artOf (len orig rans flags mtch model : Nat) : State :=
  ((base 8).load .art (header orig rans flags mtch model)).setLen .art (BitVec.ofNat 32 len)

theorem witness_CtUnpackResult_faults :
    (∀ s ∈ [artOf 23 8 4 1 3 512, artOf 543 8 4 1 3 512, artOf 544 8 4 1 3 511, artOf 544 8 3 1 3 512, artOf 545 8 4 2 3 512,
        (artOf 544 8 4 1 3 512).writeBytes .art 0 [0x50#8]],
      s.err = 0#4 ∧ s.len .art ≤ capacity s.cfg .art ∧ s.cfg.Bounded) ∧
    unpackCode (artOf 23 8 4 1 3 512) = 8#4 ∧ unpackCode (artOf 543 8 4 1 3 512) = 8#4 ∧
    unpackCode (artOf 544 8 4 1 3 511) = 9#4 ∧ unpackCode (artOf 544 8 3 1 3 512) = 9#4 ∧
    unpackCode (artOf 545 8 4 2 3 512) = 13#4 ∧
    unpackCode ((artOf 544 8 4 1 3 512).writeBytes .art 0 [0x50#8]) = 2#4 := by decide +kernel

theorem witness_CtUnpackResult_ok :
    let s := artOf 565 8 20 1 8 512
    s.err = 0#4 ∧ s.len .art ≤ capacity s.cfg .art ∧ s.cfg.Bounded ∧ unpackCode s = 0#4 := by decide +kernel

theorem witness_UnpackRestoresPack :
    let s := { base 8 with model := lenBuf 512, rans := lenBuf 4 }
    s.err = 0#4 ∧ s.cfg.Bounded ∧ 4 ≤ s.len .rans ∧ ∃ t, exec .ctPack s = .next t ∧ t.err = 0#4 :=
  ⟨by decide, by decide, by decide, next_of (f := State.err) (by decide +kernel)⟩

theorem witness_DecInitResult :
    ((ready 8 8 [] [] []).err = 0#4 ∧ (ready 8 8 [] [] []).isValid .hdr = true ∧
      (ready 8 8 [] [] []).hdr.origSize.toNat ≤ (ready 8 8 [] [] []).cfg.nMax) ∧
    ((ready 8 9 [] [] []).err = 0#4 ∧ (ready 8 9 [] [] []).isValid .hdr = true ∧
      (ready 8 9 [] [] []).cfg.nMax < (ready 8 9 [] [] []).hdr.origSize.toNat) ∧
    ((base 8).err = 0#4 ∧ (base 8).isValid .hdr = false) := by decide +kernel

theorem witness_DecStepRunsTheToken :
    (ready 8 8 [] [] []).tokenHere = .ok (.lit, []) ∧
      (ready 8 8 [0x80#8] [0x01#8, 0x00#8, 0x05#8] [0x61#8]).tokenHere = .ok (.mtch 1#16 5#8, []) := by decide +kernel

theorem witness_LitResult :
    ∀ s ∈ [ready 8 8 [0x00#8] [] [], (ready 8 8 [0x80#8] [] []).setBrPos 8#32],
      s.err = 0#4 ∧ s.cfg.Bounded ∧ decReady s = true ∧ s.len .out < s.hdr.origSize.toNat ∧
        s.len .flags ≤ capacity s.cfg .flags ∧ s.len .mtch ≤ capacity s.cfg .mtch ∧ s.len .rans ≤ capacity s.cfg .rans ∧
        s.len .out < capacity s.cfg .out ∧ s.flagsBit s.brPos.toNat = false := by decide +kernel

theorem witness_MatchResult :
    let s := ready 3 3 [0x80#8] [0x02#8, 0x00#8, 0xFF#8] [0x61#8, 0x62#8]
    s.err = 0#4 ∧ s.cfg.Bounded ∧ decReady s = true ∧ s.len .out < s.hdr.origSize.toNat ∧
      s.len .flags ≤ capacity s.cfg .flags ∧ s.len .mtch ≤ capacity s.cfg .mtch ∧ s.len .rans ≤ capacity s.cfg .rans ∧
      s.flagsBit s.brPos.toNat = true ∧ s.decMpos.toNat + 3 ≤ s.len .mtch ∧
      (s.byte .mtch s.decMpos.toNat).toNat + 256 * (s.byte .mtch (s.decMpos.toNat + 1)).toNat = (2#16).toNat ∧
      s.byte .mtch (s.decMpos.toNat + 2) = 0xFF#8 ∧ 1 ≤ (2#16).toNat ∧ (2#16).toNat ≤ s.len .out ∧
      s.len .out + (0xFF#8).toNat ≤ capacity s.cfg .out := by decide +kernel

/-- A ready decoder with one valid bit taken away: the bits of R24 that R240 and R243 name are 0, 2, 3, 5 and 6. -/
def unready (bit : Nat) : State :=
  { ready 8 8 [0x80#8] [0x01#8, 0x00#8] [0x61#8, 0x62#8] with valid := 0x6D#8 &&& ~~~(1#8 <<< bit) }

/-- A ready decoder whose model sums to 4095, and one whose output has the original size. -/
def shortModel : State := (ready 8 8 [0x80#8] [] [0x61#8]).putModel (freqList [(0x61, 4095)])

theorem witness_MatchFaults_refused :
    (∀ b ∈ [0, 2, 3, 5, 6], (unready b).err = 0#4) ∧ (unready 6).isValid .dec = false ∧ (unready 5).isValid .hdr = false ∧
      (unready 3).isValid .br = false ∧ (unready 2).isValid .rd = false ∧ (unready 0).isValid .ss = false ∧
      (shortModel.err = 0#4 ∧ shortModel.cumAt 256 ≠ 4096) ∧
      (let s := ready 8 2 [0x80#8] [] [0x61#8, 0x62#8]; s.err = 0#4 ∧ s.hdr.origSize.toNat ≤ s.len .out) := by decide +kernel

theorem witness_MatchFaults :
    (∀ s ∈ [ready 8 8 [0x80#8] [0x01#8, 0x00#8] [0x61#8, 0x62#8], ready 8 8 [0x80#8] [0x00#8, 0x00#8, 0x03#8] [0x61#8, 0x62#8],
        ready 8 8 [0x80#8] [0x03#8, 0x00#8, 0x03#8] [0x61#8, 0x62#8]],
      s.err = 0#4 ∧ s.cfg.Bounded ∧ s.isValid .dec = true ∧ s.isValid .hdr = true ∧ s.isValid .br = true ∧ s.isValid .rd = true ∧
        s.isValid .ss = true ∧ s.cumAt 256 = 4096 ∧ s.len .out < s.hdr.origSize.toNat ∧
        s.len .flags ≤ capacity s.cfg .flags ∧ s.len .mtch ≤ capacity s.cfg .mtch ∧ s.len .rans ≤ capacity s.cfg .rans ∧
        s.len .out ≤ capacity s.cfg .out ∧ s.flagsBit s.brPos.toNat = true) ∧
    (let s := ready 8 8 [0x80#8] [0x01#8, 0x00#8] [0x61#8, 0x62#8]; s.len .mtch < s.decMpos.toNat + 3) ∧
    (let s := ready 8 8 [0x80#8] [0x00#8, 0x00#8, 0x03#8] [0x61#8, 0x62#8]
     s.decMpos.toNat + 3 ≤ s.len .mtch ∧
       (s.byte .mtch s.decMpos.toNat).toNat + 256 * (s.byte .mtch (s.decMpos.toNat + 1)).toNat = 0) ∧
    (let s := ready 8 8 [0x80#8] [0x03#8, 0x00#8, 0x03#8] [0x61#8, 0x62#8]
     s.decMpos.toNat + 3 ≤ s.len .mtch ∧
       s.len .out < (s.byte .mtch s.decMpos.toNat).toNat + 256 * (s.byte .mtch (s.decMpos.toNat + 1)).toNat) := by
  decide +kernel

/-- The same state under `DEC_OVERSHOOT = truncate`. -/
def truncating (s : State) : State := { s with cfg := { s.cfg with decOvershoot := .truncate } }

theorem witness_DecRunUnrolls_refused :
    (∀ s ∈ [unready 6, shortModel], s.err = 0#4) ∧ (unready 6).isValid .dec = false ∧ shortModel.cumAt 256 ≠ 4096 := by
  decide +kernel

/-- 41_instructions_system R240, R243; 95 section 2.6: DEC.STEP and DEC.RUN are refused without `VALID.DEC`, and
DEC.STEP once `OUT_LEN` is the original size. -/
theorem test_decoder_refused :
    let refused := fun (s : State) o => after o = some { s with status := 0xC1#8 }
    refused (unready 6) (exec .decStep (unready 6)) ∧ refused (unready 6) (exec .decRun (unready 6)) ∧
      refused (ready 8 2 [0x80#8] [] [0x61#8, 0x62#8]) (exec .decStep (ready 8 2 [0x80#8] [] [0x61#8, 0x62#8])) := by
  decide +kernel

theorem witness_DecRunUnrolls :
    (∀ s ∈ [ready 8 1 [] [] [0x61#8], ready 8 2 [] [] [0x61#8], truncating (ready 8 0 [] [] [0x61#8])],
      s.err = 0#4 ∧ s.cfg.Bounded ∧ s.isValid .dec = true ∧ s.isValid .hdr = true ∧ s.isValid .br = true ∧ s.isValid .rd = true ∧
        s.isValid .ss = true ∧ s.cumAt 256 = 4096 ∧ s.hdr.origSize.toNat ≤ s.cfg.nMax) ∧
    (∀ s ∈ [ready 8 1 [] [] [0x61#8], truncating (ready 8 0 [] [] [0x61#8])], s.hdr.origSize.toNat ≤ s.len .out) ∧
    (let s := ready 8 2 [] [] [0x61#8]; s.len .out < s.hdr.origSize.toNat) := by decide +kernel

theorem witness_DecRunEnds :
    ∀ s ∈ [(ready 8 8 [0x80#8] [] [0x61#8]).setBrPos 8#32, truncating ((ready 8 0 [0x80#8] [] [0x61#8]).setBrPos 8#32)],
      s.err = 0#4 ∧ s.cfg.Bounded ∧ s.hdr.origSize.toNat ≤ s.cfg.nMax ∧ decReady s = true ∧
        8 * s.len .flags ≤ s.brPos.toNat ∧ s.len .flags ≤ capacity s.cfg .flags ∧ s.len .mtch ≤ capacity s.cfg .mtch ∧
        s.len .rans ≤ capacity s.cfg .rans := by decide +kernel

theorem witness_DecRunEnds_ok :
    let s := ready 3 3 [0x80#8] [0x02#8, 0x00#8, 0x05#8] [0x61#8, 0x62#8]
    (s.err = 0#4 ∧ s.cfg.Bounded ∧ s.hdr.origSize.toNat ≤ s.cfg.nMax) ∧
      (∃ t, exec .decRun s = .next t ∧ (t.err, t.len .out) = (0#4, 7)) ∧
      ∃ t, exec .decRun (truncating s) = .next t ∧ (t.err, t.len .out) = (0#4, 3) :=
  ⟨by decide +kernel, next_of (f := fun t => (t.err, t.len .out)) (by decide +kernel),
    next_of (f := fun t => (t.err, t.len .out)) (by decide +kernel)⟩

theorem witness_CompressEmptyOrTooLong :
    ((base 8).err = 0#4 ∧ (base 8).len .inp = 0) ∧
    (let s := { base 8 with inp := lenBuf 9 }; s.err = 0#4 ∧ s.cfg.nMax < s.len .inp) := by decide

theorem witness_CompressCompletes :
    ∀ c ∈ [small 1, { small 1 with ransL := 2 ^ 23 }, { small 1 with encBoundShift := 12 }],
      let s := { (base 1).load .inp [0x41#8] with cfg := c }
      s.err = 0#4 ∧ s.cfg.Bounded ∧ (s.cfg.Documented ∨ s.cfg.RenormConsistent) ∧ 1 ≤ s.len .inp ∧
        s.len .inp ≤ s.cfg.nMax := by decide +kernel

/-- A sound artifact of literals only, and two that are not sound. -/
def artSingle (orig : Nat) (b : Byte) : State :=
  withRegion .art (header orig 4 0 0 512 ++ [0x00#8, 0x00#8, 0x01#8, 0x00#8]) b (base 8)

theorem artSingle_sum (orig : Nat) (b : Byte) :
    (artSingle orig b).regionFreq .art 28 = fun sym => if sym = 0#8 then 256 * b.toNat else 0 :=
  withRegion_sum .art (header orig 4 0 0 512 ++ [0x00#8, 0x00#8, 0x01#8, 0x00#8]) b (base 8)

theorem artSingle_header :
    ∀ s ∈ [artSingle 8 0x10#8, artSingle 9 0x10#8, artSingle 8 0x00#8],
      s.err = 0#4 ∧ s.cfg.Bounded ∧ s.cfg.decOvershoot = .keep ∧ s.len .art ≤ capacity s.cfg .art ∧ unpackCode s = 0#4 ∧
        s.number32 .art 8 = 4 ∧ s.number32 .art 12 = 0 ∧ s.number32 .art 16 = 0 := by decide +kernel

theorem witness_CompressIsAFunctionOfItsInput :
    let s := (base 2).load .inp [0x41#8, 0x42#8]
    let s' := { s with arg0 := 7#32, epoch := 3, valid := 0x7F#8, bwCnt := 5#3 }
    s.err = 0#4 ∧ s'.err = 0#4 ∧ s.cfg.Bounded ∧ s'.cfg = s.cfg ∧ s'.len .inp = s.len .inp ∧
      (∀ a, a < s.len .inp → s'.byte .inp a = s.byte .inp a) ∧
      (∃ t, exec .compress s = .next t) ∧ ∃ t', exec .compress s' = .next t' :=
  ⟨by decide +kernel, by decide +kernel, by decide +kernel, rfl, rfl, fun _ _ => rfl, ⟨_, rfl⟩, ⟨_, rfl⟩⟩

theorem witness_CompressIsAFunctionOfItsInput_decompress :
    let s := artSingle 8 0x10#8
    let s' := { s with arg0 := 7#32, epoch := 3, valid := 0x7F#8, bwCnt := 5#3, decMpos := 9#32, out := lenBuf 5 }
    s.err = 0#4 ∧ s'.err = 0#4 ∧ s.cfg.Bounded ∧ s'.cfg = s.cfg ∧ s'.len .art = s.len .art ∧
      (∀ a, a < s.len .art → s'.byte .art a = s.byte .art a) ∧ s.len .art ≤ capacity s.cfg .art ∧
      (∃ t, exec .decompress s = .next t) ∧ ∃ t', exec .decompress s' = .next t' :=
  have h := artSingle_header (artSingle 8 0x10#8) (by simp)
  ⟨h.1, h.1, h.2.1, rfl, rfl, fun _ _ => rfl, h.2.2.2.1, ⟨_, rfl⟩, ⟨_, rfl⟩⟩

theorem witness_DecompressFaults_code :
    (let s := { base 8 with art := lenBuf 566 }; s.err = 0#4 ∧ s.cfg.Bounded ∧ capacity s.cfg .art < s.len .art) ∧
    ((artOf 23 8 4 1 3 512).err = 0#4 ∧ (artOf 23 8 4 1 3 512).cfg.Bounded ∧
      (artOf 23 8 4 1 3 512).len .art ≤ capacity (small 8) .art ∧ unpackCode (artOf 23 8 4 1 3 512) ≠ 0#4) := by decide +kernel

theorem witness_DecompressFaults_model :
    let s := artSingle 8 0x00#8
    s.err = 0#4 ∧ s.cfg.Bounded ∧ s.len .art ≤ capacity s.cfg .art ∧ unpackCode s = 0#4 ∧
      sumSymbols (s.regionFreq .art (24 + s.number32 .art 8 + s.number32 .art 12 + s.number32 .art 16)) ≠ 4096 := by
  obtain ⟨h1, h2, -, h4, h5, h6, h7, h8⟩ := artSingle_header (artSingle 8 0x00#8) (by simp)
  refine ⟨h1, h2, h4, h5, ?_⟩
  rw [h6, h7, h8, artSingle_sum]
  decide +kernel

theorem witness_DecompressFaults_size :
    let s := artSingle 9 0x10#8
    s.err = 0#4 ∧ s.cfg.Bounded ∧ s.len .art ≤ capacity s.cfg .art ∧ unpackCode s = 0#4 ∧
      sumSymbols (s.regionFreq .art (24 + s.number32 .art 8 + s.number32 .art 12 + s.number32 .art 16)) = 4096 ∧
      s.cfg.nMax < s.number32 .art 4 := by
  obtain ⟨h1, h2, -, h4, h5, h6, h7, h8⟩ := artSingle_header (artSingle 9 0x10#8) (by simp)
  refine ⟨h1, h2, h4, h5, ?_, by decide +kernel⟩
  rw [h6, h7, h8, artSingle_sum]
  decide +kernel

theorem witness_DecompressCompletes :
    let s := artSingle 8 0x10#8
    s.err = 0#4 ∧ s.cfg.Bounded ∧ s.len .art ≤ capacity s.cfg .art ∧ unpackCode s = 0#4 ∧
      s.number32 .art 4 ≤ s.cfg.nMax ∧
      sumSymbols (s.regionFreq .art (24 + s.number32 .art 8 + s.number32 .art 12 + s.number32 .art 16)) = 4096 ∧
      s.number32 .art 12 = 0 := by
  obtain ⟨h1, h2, -, h4, h5, h6, h7, h8⟩ := artSingle_header (artSingle 8 0x10#8) (by simp)
  refine ⟨h1, h2, h4, h5, by decide +kernel, ?_, h7⟩
  rw [h6, h7, h8, artSingle_sum]
  decide +kernel

/-- A sound artifact with a flag byte and a match record. -/
def artMatch : State :=
  withRegion .art (header 8 4 1 3 512 ++ [0x00#8, 0x00#8, 0x01#8, 0x00#8, 0x40#8, 0x01#8, 0x00#8, 0x07#8]) 0x10#8 (base 8)

theorem artMatch_sum : artMatch.regionFreq .art 32 = fun sym => if sym = 0#8 then 256 * (0x10#8).toNat else 0 :=
  withRegion_sum .art (header 8 4 1 3 512 ++ [0x00#8, 0x00#8, 0x01#8, 0x00#8, 0x40#8, 0x01#8, 0x00#8, 0x07#8]) 0x10#8 (base 8)

theorem artMatch_header :
    artMatch.err = 0#4 ∧ artMatch.cfg.Bounded ∧ artMatch.len .art ≤ capacity artMatch.cfg .art ∧ unpackCode artMatch = 0#4 ∧
      artMatch.number32 .art 4 ≤ artMatch.cfg.nMax ∧ artMatch.number32 .art 8 = 4 ∧ artMatch.number32 .art 12 = 1 ∧
      artMatch.number32 .art 16 = 3 := by decide +kernel

theorem witness_DecompressCompletes_with_flags :
    artMatch.err = 0#4 ∧ artMatch.cfg.Bounded ∧ artMatch.len .art ≤ capacity artMatch.cfg .art ∧ unpackCode artMatch = 0#4 ∧
      artMatch.number32 .art 4 ≤ artMatch.cfg.nMax ∧
      sumSymbols (artMatch.regionFreq .art
        (24 + artMatch.number32 .art 8 + artMatch.number32 .art 12 + artMatch.number32 .art 16)) = 4096 := by
  obtain ⟨h1, h2, h3, h4, h5, h6, h7, h8⟩ := artMatch_header
  refine ⟨h1, h2, h3, h4, h5, ?_⟩
  rw [h6, h7, h8, artMatch_sum]
  decide +kernel

theorem witness_RoundTripWithoutRenormalisation :
    let s := (base 1).load .inp [0x41#8]
    s.err = 0#4 ∧ s.cfg.Bounded ∧ s.cfg.ransL ≤ 2 ^ 24 ∧ s.cfg.encBoundShift + 12 ≤ 32 ∧ 1 ≤ s.len .inp ∧
      s.len .inp ≤ s.cfg.nMax ∧ ∃ t, exec .compress s = .next t ∧ t.err = 0#4 ∧ t.len .rans = 4 := by
  refine ⟨by decide +kernel, by decide +kernel, by decide +kernel, by decide +kernel, by decide +kernel, by decide +kernel, ?_⟩
  obtain ⟨t, h, h'⟩ := next_of (o := exec .compress ((base 1).load .inp [0x41#8])) (f := fun t => (t.err, t.len .rans))
    (v := (0#4, 4)) (by decide +kernel)
  exact ⟨t, h, congrArg Prod.fst h', congrArg Prod.snd h'⟩

theorem witness_RoundTripUnderRenormConsistent :
    ∀ c ∈ [{ small 2 with ransL := 2 ^ 23 }, { small 2 with encBoundShift := 12 }],
      let s := { (base 2).load .inp [0x41#8, 0x42#8] with cfg := c }
      s.err = 0#4 ∧ s.cfg.Bounded ∧ s.cfg.RenormConsistent ∧ s.cfg.ransL % 4096 = 0 ∧ 1 ≤ s.len .inp ∧
        s.len .inp ≤ s.cfg.nMax := by decide +kernel

theorem witness_StepKeepsMemoryCanonical : ∃ t, step State.reset = .next t ∧ State.reset.MemWf :=
  ⟨_, rfl, State.reset_wf⟩

theorem witness_StepKeepsReservedAndWriter :
    ∃ t, step (State.reset.withCommand 0x13#8) = .next t ∧ (State.reset.withCommand 0x13#8).ReservedZero ∧
      (State.reset.withCommand 0x13#8).WriterInv :=
  ⟨_, rfl, by unfold State.ReservedZero; decide, by unfold State.WriterInv; decide⟩

theorem witness_StepKeepsModelAndEncoder :
    let s := ({ oneModel with valid := 0x03#8, reState := 65536#32 }).withCommand 0x41#8
    ∃ t, step s = .next t ∧ s.cfg.Documented ∧ s.ModelInv ∧ s.EncoderInv :=
  ⟨_, rfl, by decide +kernel, fun _ => Or.inl oneModel_ok, fun _ => by decide +kernel⟩

theorem witness_FrameOfCommandsThatStoreNothing :
    ∀ i ∈ [Instr.bwInit, .bwBytes, .brInit, .brRbit, .brRbits, .ssCount, .ssLoad, .reInit, .rdInit, .rdGet, .lzInit, .decInit],
      ∃ t, exec i (base 8) = .next t := by
  intro i h
  simp only [List.mem_cons, List.not_mem_nil, or_false] at h
  rcases h with rfl | rfl | rfl | rfl | rfl | rfl | rfl | rfl | rfl | rfl | rfl | rfl <;> exact ⟨_, rfl⟩

theorem witness_FrameOfCommandsThatStore :
    (base 8).cfg.Bounded ∧
      ∀ i, ((∃ dist len, i = .matchTok dist len) ∨
        i ∈ [Instr.bwWbit, .bwWbits, .bwFlush, .ssStore, .rePut, .reFlush, .lzStep, .lzParse, .ctPack, .ctUnpack, .decStep,
          .decRun, .lit]) → ∃ t, exec i (base 8) = .next t := by
  refine ⟨by decide, fun i h => ?_⟩
  simp only [List.mem_cons, List.not_mem_nil, or_false] at h
  rcases h with ⟨_, _, rfl⟩ | rfl | rfl | rfl | rfl | rfl | rfl | rfl | rfl | rfl | rfl | rfl | rfl | rfl <;> exact ⟨_, rfl⟩

theorem witness_FrameOfCompositeCommands :
    (∃ t, exec .compress (base 8) = .next t) ∧ ∃ t, exec .decompress (base 8) = .next t := ⟨⟨_, rfl⟩, ⟨_, rfl⟩⟩

theorem witness_InputBufferOverflow_plain :
    ∀ p ∈ [(Space.flags, { base 8 with flags := lenBuf 2 }), (.inp, { base 8 with inp := lenBuf 9 }),
        (.rans, { base 8 with rans := lenBuf 21 }), (.art, { base 8 with art := lenBuf 566 })],
      p.2.err = 0#4 ∧ capacity p.2.cfg p.1 < p.2.len p.1 := by decide

theorem witness_InputBufferOverflow_units :
    (let s := { base 8 with valid := 0x08#8, flags := lenBuf 2, arg0 := 32#32 }
     s.err = 0#4 ∧ s.isValid .br = true ∧ capacity s.cfg .flags < s.len .flags ∧ s.arg0.toNat ≤ 32) ∧
    (let s := { oneModel with valid := 0x05#8, rans := lenBuf 21 }
     s.err = 0#4 ∧ s.isValid .rd = true ∧ s.isValid .ss = true ∧ s.cumAt 256 = 4096 ∧ capacity s.cfg .rans < s.len .rans) ∧
    (let s := { base 8 with valid := 0x10#8, inp := lenBuf 9, lzP := 8#32 }
     s.err = 0#4 ∧ s.isValid .lz = true ∧ s.lzP.toNat < s.len .inp ∧ capacity s.cfg .inp < s.len .inp) ∧
    (let s := { base 8 with model := lenBuf 512, mtch := lenBuf 9 }
     s.err = 0#4 ∧ s.len .model = 512 ∧ s.bwCnt = 0#3 ∧ s.isValid .re = false ∧ capacity s.cfg .mtch < s.len .mtch) ∧
    (let s := { ready 8 264 [] [] [] with out := lenBuf 263 }
     s.err = 0#4 ∧ decReady s = true ∧ s.len .out < s.hdr.origSize.toNat ∧ capacity s.cfg .out < s.len .out) := by
  decide +kernel

end Sys2Proof.Tests
end

/-! PROOFS. The host's side of the state: what every unit operation leaves alone, and which faults it can raise. -/

namespace Sys2Proof.Machine

/-- What the unit operations do not write: `CMD`, the operand, result and status registers, the pending accesses and the
parameters. -/
def State.hostSide (s : State) : Byte × Word × Word × Word × BitVec 8 × List HostAction × Config :=
  (s.cmd, s.arg0, s.arg1, s.result, s.status, s.pending, s.cfg)

section HostSide
variable (s : State)

@[simp] theorem State.setBuf_hostSide (sp : Space) (b : Buf) : (s.setBuf sp b).hostSide = s.hostSide := by
  cases sp <;> rfl
@[simp] theorem State.setLen_hostSide (sp : Space) (n : Word) : (s.setLen sp n).hostSide = s.hostSide :=
  s.setBuf_hostSide sp _
@[simp] theorem State.writeBytes_hostSide (sp : Space) (a : Nat) (bs : List Byte) :
    (s.writeBytes sp a bs).hostSide = s.hostSide := s.setBuf_hostSide sp _
@[simp] theorem State.load_hostSide (sp : Space) (bs : List Byte) : (s.load sp bs).hostSide = s.hostSide := by
  simp [State.load]
@[simp] theorem State.setValid_hostSide (u : ValidBit) : (s.setValid u).hostSide = s.hostSide := rfl
@[simp] theorem State.clearValid_hostSide (u : ValidBit) : (s.clearValid u).hostSide = s.hostSide := rfl
@[simp] theorem State.setWriter_hostSide (cur : Byte) (cnt : BitVec 3) : (s.setWriter cur cnt).hostSide = s.hostSide := rfl
@[simp] theorem State.setFlushed_hostSide (b : Bool) : (s.setFlushed b).hostSide = s.hostSide := rfl
@[simp] theorem State.setBrPos_hostSide (p : Word) : (s.setBrPos p).hostSide = s.hostSide := rfl
@[simp] theorem State.setReState_hostSide (x : Word) : (s.setReState x).hostSide = s.hostSide := rfl
@[simp] theorem State.setDecoder_hostSide (x ptr : Word) : (s.setDecoder x ptr).hostSide = s.hostSide := rfl
@[simp] theorem State.setLzP_hostSide (p : Word) : (s.setLzP p).hostSide = s.hostSide := rfl
@[simp] theorem State.setDecMpos_hostSide (p : Word) : (s.setDecMpos p).hostSide = s.hostSide := rfl
@[simp] theorem State.setHdr_hostSide (h : Header) : (s.setHdr h).hostSide = s.hostSide := rfl
@[simp] theorem State.setRaw_hostSide (r : Vector Word 256) : (s.setRaw r).hostSide = s.hostSide := rfl
@[simp] theorem State.putModel_hostSide (fs : List Nat) : (s.putModel fs).hostSide = s.hostSide := rfl
@[simp] theorem State.reinit_hostSide (c : Config) (kept : Space) : (s.reinit c kept).hostSide = s.hostSide := rfl

end HostSide

/-- A property of the state an operation ends in, where the operation itself never raises `NotReady`: that code comes from a
refusal alone (60_exceptions R270). -/
inductive Res.Keeps {α : Type} (P : State → Prop) : Res α → Prop
  | ok (a : α) {t : State} (h : P t) : Keeps P (.ok a t)
  | raised {k : ErrKind} {t : State} (hk : k ≠ .notReady) (h : P t) : Keeps P (.raised k t)
  | refused : Keeps P .refused

section Keeps
variable {α β : Type} {P Q : State → Prop}

theorem Res.keeps_ok_iff {a : α} {t : State} : (Res.ok a t).Keeps P ↔ P t :=
  ⟨fun h => by cases h; assumption, .ok a⟩

theorem Res.keeps_raised_iff {k : ErrKind} {t : State} : (Res.raised k t : Res α).Keeps P ↔ k ≠ .notReady ∧ P t :=
  ⟨fun h => by cases h; exact ⟨‹_›, ‹_›⟩, fun h => .raised h.1 h.2⟩

theorem Res.Keeps.bind {r : Res α} {f : α → State → Res β} (hr : r.Keeps P) (hf : ∀ a t, P t → (f a t).Keeps Q)
    (hPQ : ∀ t, P t → Q t) : (r.bind f).Keeps Q := by
  cases hr with
  | ok a h => exact hf a _ h
  | raised hk h => exact .raised hk (hPQ _ h)
  | refused => exact .refused

theorem Res.Keeps.imp {r : Res α} (hr : r.Keeps P) (h : ∀ t, P t → Q t) : r.Keeps Q := by
  cases hr with
  | ok a ht => exact .ok a (h _ ht)
  | raised hk ht => exact .raised hk (h _ ht)
  | refused => exact .refused

theorem Res.Keeps.all {r : Res α} (hr : r.Keeps P) : r.All P := by
  cases hr with
  | ok a h => exact h
  | raised hk h => exact h
  | refused => trivial

/-- Both arms of a test keep the property. -/
theorem Res.keeps_ite {p : Prop} [Decidable p] {r r' : Res α} (h : p → r.Keeps P) (h' : ¬ p → r'.Keeps P) :
    (if p then r else r').Keeps P := by
  split
  · exact h ‹_›
  · exact h' ‹_›

end Keeps

/-- What `LZ.STEP` does with the search's answer `best` at the position `p` (43_lz77 R192): a match, or a literal. -/
def lzEmit (c : Config) (p : Nat) (best : Nat × Nat) (s : State) : Res Unit :=
  if minMatch ≤ best.1 then
    (appendList c .mtch (bytesLe16 (BitVec.ofNat 16 (p - best.2)) ++ [BitVec.ofNat 8 best.1]) s).bind fun _ s =>
      (bwWbit c true s).bind fun _ s => .ok () (s.setLzP (s.lzP + BitVec.ofNat 32 best.1))
  else
    (append c .lit (s.byte .inp p) s).bind fun _ s =>
      (bwWbit c false s).bind fun _ s => .ok () (s.setLzP (s.lzP + 1#32))

theorem lzStep_eq (c : Config) (s : State) :
    lzStep c s = checked c (s.isValid .lz && decide (s.lzP.toNat < s.len .inp)) [.inp] s fun _ =>
      lzEmit c s.lzP.toNat (searchAt (s.byte .inp) (s.len .inp) s.lzP.toNat) s := rfl

/-- An operation that ends with the host's side as `h` says. -/
abbrev Res.KeepsHost {α : Type} (h : Byte × Word × Word × Word × BitVec 8 × List HostAction × Config) (r : Res α) : Prop :=
  r.Keeps fun t => t.hostSide = h

section KeepsHost
variable {α β : Type} {c : Config} {s : State}
  {h : Byte × Word × Word × Word × BitVec 8 × List HostAction × Config} (hs : s.hostSide = h)

theorem Res.KeepsHost.bind {r : Res α} {f : α → State → Res β} (hr : r.KeepsHost h)
    (hf : ∀ a t, t.hostSide = h → (f a t).KeepsHost h) : (r.bind f).KeepsHost h :=
  Res.Keeps.bind hr hf fun _ ht => ht

include hs

theorem checked_keepsHost {pre : Bool} {inputs : List Space} {go : Unit → Res α} (hg : (go ()).KeepsHost h) :
    (checked c pre inputs s go).KeepsHost h := by
  rcases checked_cases c pre inputs s go with hc | hc | ⟨-, -, hc⟩ <;> rw [hc]
  · exact .refused
  · exact .raised (by decide) hs
  · exact hg

theorem append_keepsHost {sp : Space} {b : Byte} : (append c sp b s).KeepsHost h := by
  unfold append
  split
  · exact .ok _ (by simpa using hs)
  · exact .refused

theorem appendList_keepsHost {sp : Space} {bs : List Byte} : (appendList c sp bs s).KeepsHost h := by
  induction bs generalizing s with
  | nil => exact .ok _ hs
  | cons b bs ih => exact (append_keepsHost hs).bind fun _ _ ht => ih ht

theorem bwWbit_keepsHost {b : Bool} : (bwWbit c b s).KeepsHost h := by
  rcases bwWbit_cases c b s with ⟨-, -, hr⟩ | ⟨-, -, -, hr⟩ | hr <;> rw [hr]
  · exact .ok _ (by simpa using hs)
  · exact .ok _ (by simpa using hs)
  · exact .refused

theorem bwBits_keepsHost {v : Word} {n : Nat} : (bwBits c v n s).KeepsHost h := by
  induction n generalizing s with
  | zero => exact .ok _ hs
  | succ n ih => exact (bwWbit_keepsHost hs).bind fun _ _ ht => ih ht

theorem bwWbits_keepsHost {v n : Word} : (bwWbits c v n s).KeepsHost h := checked_keepsHost hs (bwBits_keepsHost hs)

theorem bwInit_hostSide : (bwInit s).hostSide = h := by simpa [bwInit] using hs

theorem bwFlush_keepsHost : (bwFlush c s).KeepsHost h := by
  unfold bwFlush
  split
  · exact .ok _ (by simpa using hs)
  · exact (append_keepsHost hs).bind fun _ _ ht => .ok _ (by simpa using ht)

theorem brInit_keepsHost : (brInit c s).KeepsHost h := checked_keepsHost hs (.ok _ (by simpa using hs))

theorem brRbit_keepsHost : (brRbit c s).KeepsHost h := by
  refine checked_keepsHost hs ?_
  exact Res.keeps_ite (fun _ => .ok _ (by simpa using hs)) fun _ => .ok _ hs

theorem brBits_keepsHost {n : Nat} {v : Word} : (brBits c n v s).KeepsHost h := by
  induction n generalizing s v with
  | zero => exact .ok _ hs
  | succ n ih => exact (brRbit_keepsHost hs).bind fun _ _ ht => ih ht

theorem brRbits_keepsHost {n : Word} : (brRbits c n s).KeepsHost h := checked_keepsHost hs (brBits_keepsHost hs)

theorem ssCount_keepsHost : (ssCount c s).KeepsHost h := checked_keepsHost hs (.ok _ (by simpa using hs))

theorem ssStore_keepsHost : (ssStore c s).KeepsHost h := checked_keepsHost hs (.ok _ (by simpa using hs))

theorem ssLoad_keepsHost : (ssLoad c s).KeepsHost h := by
  refine checked_keepsHost hs ?_
  exact Res.keeps_ite (fun _ => .ok _ (by simpa using hs)) fun _ => .raised (by decide) hs

theorem reInit_hostSide : (reInit c s).hostSide = h := by simpa [reInit] using hs

theorem emitBytes_keepsHost {bound fuel : Nat} : (emitBytes c bound fuel s).KeepsHost h := by
  induction fuel generalizing s with
  | zero => exact .ok _ hs
  | succ fuel ih =>
    rw [emitBytes]
    split
    · exact (append_keepsHost hs).bind fun _ t ht => ih (s := t.setReState _) (by simpa using ht)
    · exact .ok _ hs

theorem rePut_keepsHost {sym : Byte} : (rePut c sym s).KeepsHost h := by
  refine checked_keepsHost hs ?_
  refine Res.keeps_ite (fun _ => .raised (by decide) hs) fun _ => ?_
  exact (emitBytes_keepsHost hs).bind fun _ _ ht => .ok _ (by simpa using ht)

theorem reFlush_keepsHost : (reFlush c s).KeepsHost h :=
  checked_keepsHost hs ((appendList_keepsHost hs).bind fun _ _ ht => .ok _ (by simpa using ht))

theorem rdInit_keepsHost : (rdInit c s).KeepsHost h := checked_keepsHost hs (.ok _ (by simpa using hs))

theorem rdGet_keepsHost : (rdGet c s).KeepsHost h := checked_keepsHost hs (.ok _ (by simpa using hs))

theorem lzInit_hostSide : (lzInit s).hostSide = h := by simpa [lzInit] using hs

theorem lzEmit_keepsHost {p : Nat} {best : Nat × Nat} : (lzEmit c p best s).KeepsHost h := by
  refine Res.keeps_ite (fun _ => ?_) fun _ => ?_
  · exact (appendList_keepsHost hs).bind fun _ _ ht => (bwWbit_keepsHost ht).bind fun _ _ hu => .ok _ (by simpa using hu)
  · exact (append_keepsHost hs).bind fun _ _ ht => (bwWbit_keepsHost ht).bind fun _ _ hu => .ok _ (by simpa using hu)

theorem lzStep_keepsHost : (lzStep c s).KeepsHost h := by
  rw [lzStep_eq]
  exact checked_keepsHost hs (lzEmit_keepsHost hs)

theorem lzLoop_keepsHost {fuel : Nat} : (lzLoop c fuel s).KeepsHost h := by
  induction fuel generalizing s with
  | zero => exact .ok _ hs
  | succ fuel ih =>
    rw [lzLoop]
    split
    · exact (lzStep_keepsHost hs).bind fun _ _ ht => ih ht
    · exact .ok _ hs

theorem lzParse_keepsHost : (lzParse c s).KeepsHost h := checked_keepsHost hs (lzLoop_keepsHost (lzInit_hostSide hs))

theorem ctPack_keepsHost : (ctPack c s).KeepsHost h := checked_keepsHost hs (.ok _ (by simpa using hs))

theorem ctUnpack_keepsHost : (ctUnpack c s).KeepsHost h := by
  refine checked_keepsHost hs ?_
  refine Res.keeps_ite (fun _ => .raised (by decide) hs) fun _ => ?_
  refine Res.keeps_ite (fun _ => .raised (by decide) (by simpa using hs)) fun _ => ?_
  refine Res.keeps_ite (fun _ => .raised (by decide) (by simpa using hs)) fun _ => ?_
  refine Res.keeps_ite (fun _ => .raised (by decide) (by simpa using hs)) fun _ => ?_
  exact Res.keeps_ite (fun _ => .raised (by decide) (by simpa using hs)) fun _ => .ok _ (by simpa [unpackRegions] using hs)

theorem decInit_keepsHost : (decInit c s).KeepsHost h := by
  refine checked_keepsHost hs ?_
  exact Res.keeps_ite (fun _ => .raised (by decide) hs) fun _ => .ok _ (by simpa using hs)

theorem copyOut_keepsHost {n src : Nat} : (copyOut c n src s).KeepsHost h := by
  induction n generalizing s src with
  | zero => exact .ok _ hs
  | succ n ih => exact (append_keepsHost hs).bind fun _ _ ht => ih ht

theorem litToken_keepsHost : (litToken c s).KeepsHost h := (rdGet_keepsHost hs).bind fun _ _ ht => append_keepsHost ht

theorem matchToken_keepsHost {dist : Half} {len : Byte} : (matchToken c dist len s).KeepsHost h := by
  have hm : (s.setDecMpos (s.decMpos + 3#32)).hostSide = h := by simpa using hs
  exact Res.keeps_ite (fun _ => .raised (by decide) hm) fun _ => copyOut_keepsHost hm

theorem decStep_keepsHost : (decStep c s).KeepsHost h := by
  refine checked_keepsHost hs ((brRbit_keepsHost hs).bind fun b t ht => ?_)
  split
  · exact litToken_keepsHost ht
  · exact matchToken_keepsHost ht
  · exact .raised (by decide) ht

theorem decLoop_keepsHost {fuel : Nat} : (decLoop c fuel s).KeepsHost h := by
  induction fuel generalizing s with
  | zero => exact .ok _ hs
  | succ fuel ih =>
    rw [decLoop]
    split
    · exact (decStep_keepsHost hs).bind fun _ _ ht => ih ht
    · exact .ok _ hs

theorem decEnd_hostSide : (decEnd c s).hostSide = h := by
  unfold decEnd
  split
  · simpa using hs
  · exact hs

theorem decRun_keepsHost : (decRun c s).KeepsHost h :=
  checked_keepsHost hs ((decLoop_keepsHost hs).bind fun _ _ ht => .ok _ (decEnd_hostSide ht))

theorem putLiterals_keepsHost {n : Nat} : (putLiterals c n s).KeepsHost h := by
  induction n generalizing s with
  | zero => exact .ok _ hs
  | succ n ih => exact (rePut_keepsHost hs).bind fun _ _ ht => ih ht

theorem compressStages_keepsHost : (compressStages c s).KeepsHost h :=
  (ssCount_keepsHost hs).bind fun _ _ h1 =>
  (lzParse_keepsHost (bwInit_hostSide h1)).bind fun _ _ h2 =>
  (bwFlush_keepsHost h2).bind fun _ _ h3 =>
  (putLiterals_keepsHost (reInit_hostSide h3)).bind fun _ _ h4 =>
  (reFlush_keepsHost h4).bind fun _ _ h5 =>
  (ssStore_keepsHost h5).bind fun _ _ h6 => ctPack_keepsHost h6

theorem compress_keepsHost : (compress c s).KeepsHost h := by
  have hr : (s.reinit c .inp).hostSide = h := by simpa using hs
  refine checked_keepsHost hs ?_
  exact Res.keeps_ite (fun _ => .raised (by decide) hr) fun _ => compressStages_keepsHost hr

theorem decompress_keepsHost : (decompress c s).KeepsHost h := by
  have hr : (s.reinit c .art).hostSide = h := by simpa using hs
  exact checked_keepsHost hs <|
    (ctUnpack_keepsHost hr).bind fun _ _ h1 =>
    (ssLoad_keepsHost h1).bind fun _ _ h2 =>
    (rdInit_keepsHost h2).bind fun _ _ h3 =>
    (brInit_keepsHost h3).bind fun _ _ h4 =>
    (decInit_keepsHost h4).bind fun _ _ h5 => decRun_keepsHost h5

end KeepsHost

/-! ### The bodies of the commands -/

/-- What an instruction other than `RESET` runs between the checks of `STATUS` and the end of the command. -/
def bodyOf : Instr → State → Res Unit
  | .lit => fun s => if litHere s then decStep s.cfg s else .refused
  | .matchTok dist len => fun s => if matchHere dist len s then decStep s.cfg s else .refused
  | .reset => fun _ => .refused
  | .compress => fun s => compress s.cfg s
  | .decompress => fun s => decompress s.cfg s
  | .bwInit => fun s => .ok () (bwInit s)
  | .bwWbit => fun s => bwWbit s.cfg s.argBit s
  | .bwWbits => fun s => bwWbits s.cfg s.arg0 s.arg1 s
  | .bwFlush => fun s => bwFlush s.cfg s
  | .bwBytes => fun s => setResult s.flags.len s
  | .brInit => fun s => brInit s.cfg s
  | .brRbit => fun s => (brRbit s.cfg s).bind fun b s => setResult ((BitVec.ofBool b).setWidth 32) s
  | .brRbits => fun s => (brRbits s.cfg s.arg0 s).bind setResult
  | .ssCount => fun s => ssCount s.cfg s
  | .ssStore => fun s => ssStore s.cfg s
  | .ssLoad => fun s => ssLoad s.cfg s
  | .reInit => fun s => .ok () (reInit s.cfg s)
  | .rePut => fun s => rePut s.cfg s.argSymbol s
  | .reFlush => fun s => reFlush s.cfg s
  | .rdInit => fun s => rdInit s.cfg s
  | .rdGet => fun s => (rdGet s.cfg s).bind fun sym s => setResult (sym.setWidth 32) s
  | .lzInit => fun s => .ok () (lzInit s)
  | .lzStep => fun s => lzStep s.cfg s
  | .lzParse => fun s => lzParse s.cfg s
  | .ctPack => fun s => ctPack s.cfg s
  | .ctUnpack => fun s => ctUnpack s.cfg s
  | .decInit => fun s => decInit s.cfg s
  | .decStep => fun s => decStep s.cfg s
  | .decRun => fun s => decRun s.cfg s

theorem exec_reset (s : State) : exec .reset s = .next (s.resetAll s.cfg) := rfl

/-- A command depends on what its body does in the state it starts in. -/
theorem command_congr {body body' : State → Res Unit} {s : State} (h : body s = body' s) :
    command body s = command body' s := by
  simp only [command, h]

theorem exec_eq_command {i : Instr} (hi : i ≠ .reset) (s : State) : exec i s = command (bodyOf i) s := by
  cases i
  case reset => exact absurd rfl hi
  case lit | matchTok | bwInit | brRbit | brRbits | reInit | rdGet | lzInit => rfl
  all_goals exact command_congr rfl

/-- Every instruction but `RESET` keeps `STATUS` and the parameters until its end, and raises no `NotReady`. -/
theorem bodyOf_keeps (i : Instr) (s : State) : (bodyOf i s).Keeps fun t => t.status = s.status ∧ t.cfg = s.cfg := by
  have hside : ∀ t : State, t.hostSide = s.hostSide → t.status = s.status ∧ t.cfg = s.cfg := by
    intro t ht
    simp only [State.hostSide, Prod.mk.injEq] at ht
    exact ⟨ht.2.2.2.2.1, ht.2.2.2.2.2.2⟩
  have hunit : ∀ r : Res Unit, r.KeepsHost s.hostSide → r.Keeps fun t => t.status = s.status ∧ t.cfg = s.cfg :=
    fun r hr => hr.imp hside
  cases i with
  | lit =>
    dsimp only [bodyOf]
    split
    · exact hunit _ (decStep_keepsHost rfl)
    · exact .refused
  | matchTok dist len =>
    dsimp only [bodyOf]
    split
    · exact hunit _ (decStep_keepsHost rfl)
    · exact .refused
  | reset => exact .refused
  | compress => exact hunit _ (compress_keepsHost rfl)
  | decompress => exact hunit _ (decompress_keepsHost rfl)
  | bwInit => exact .ok _ (hside _ (bwInit_hostSide rfl))
  | bwWbit => exact hunit _ (bwWbit_keepsHost rfl)
  | bwWbits => exact hunit _ (bwWbits_keepsHost rfl)
  | bwFlush => exact hunit _ (bwFlush_keepsHost rfl)
  | bwBytes => exact .ok _ ⟨rfl, rfl⟩
  | brInit => exact hunit _ (brInit_keepsHost rfl)
  | brRbit => exact Res.Keeps.bind (brRbit_keepsHost rfl) (fun _ t ht => .ok _ (hside t ht)) hside
  | brRbits => exact Res.Keeps.bind (brRbits_keepsHost rfl) (fun _ t ht => .ok _ (hside t ht)) hside
  | ssCount => exact hunit _ (ssCount_keepsHost rfl)
  | ssStore => exact hunit _ (ssStore_keepsHost rfl)
  | ssLoad => exact hunit _ (ssLoad_keepsHost rfl)
  | reInit => exact .ok _ (hside _ (reInit_hostSide rfl))
  | rePut => exact hunit _ (rePut_keepsHost rfl)
  | reFlush => exact hunit _ (reFlush_keepsHost rfl)
  | rdInit => exact hunit _ (rdInit_keepsHost rfl)
  | rdGet => exact Res.Keeps.bind (rdGet_keepsHost rfl) (fun _ t ht => .ok _ (hside t ht)) hside
  | lzInit => exact .ok _ (hside _ (lzInit_hostSide rfl))
  | lzStep => exact hunit _ (lzStep_keepsHost rfl)
  | lzParse => exact hunit _ (lzParse_keepsHost rfl)
  | ctPack => exact hunit _ (ctPack_keepsHost rfl)
  | ctUnpack => exact hunit _ (ctUnpack_keepsHost rfl)
  | decInit => exact hunit _ (decInit_keepsHost rfl)
  | decStep => exact hunit _ (decStep_keepsHost rfl)
  | decRun => exact hunit _ (decRun_keepsHost rfl)

/-! ### Every command ends; what it leaves of the parameters and of `STATUS` -/

@[simp] theorem State.takeFault_done (k : ErrKind) (s : State) : (s.takeFault k).done = true := by
  simp [State.takeFault]

@[simp] theorem State.takeRefusal_done (s : State) : s.takeRefusal.done = true := by
  simp [State.takeRefusal]

theorem State.resetAll_done (c : Config) (s : State) : (s.resetAll c).done = false := by
  simp [State.resetAll, State.done]

theorem State.resetAll_err (c : Config) (s : State) : (s.resetAll c).err = 0#4 := by
  simp [State.resetAll, State.err]

theorem finish_done (s : State) (r : Res Unit) : (finish s r).done = true := by
  cases r <;> simp [finish]

theorem command_done {body : State → Res Unit} {s t : State} (h : command body s = .next t) : t.done = true := by
  unfold command at h
  split at h <;> cases h
  · exact finish_done s _
  · exact s.takeRefusal_done

theorem exec_keeps_cfg {i : Instr} {s t : State} (h : exec i s = .next t) : t.cfg = s.cfg := by
  by_cases hi : i = .reset
  · subst hi
    cases h
    rfl
  · rw [exec_eq_command hi] at h
    have hb := ((bodyOf_keeps i s).imp (Q := fun u => u.cfg = s.cfg) fun _ hu => hu.2).all
    exact command_keeps (P := fun u => u.cfg = s.cfg) (fun _ _ hu => hu) rfl hb h

theorem hostWriteReg_keeps_cfg {num : Nat} {v : Word} {s t : State} (h : hostWriteReg num v s = .next t) :
    t.cfg = s.cfg := by
  unfold hostWriteReg at h
  split at h
  case h_10 =>
    split at h
    · cases h; rfl
    · cases h
  all_goals cases h; simp

theorem hostWriteByte_keeps_cfg {sp : Space} {addr : Nat} {b : Byte} {s t : State}
    (h : hostWriteByte sp addr b s = .next t) : t.cfg = s.cfg := by
  unfold hostWriteByte at h
  split_ifs at h
  cases h
  simp

/-- What a step finds to do is in a state with the same parameters. -/
def Fetch.CfgIs (c : Config) : Fetch → Prop
  | .idle => True
  | .access _ t => t.cfg = c
  | .command _ t => t.cfg = c
  | .reserved t => t.cfg = c

theorem fetch_cfgIs (s : State) : (fetch s).CfgIs s.cfg := by
  unfold fetch
  split
  · trivial
  · dsimp only
    split_ifs
    · split <;> rfl
    · rfl
  · rfl

theorem step_keeps_cfg {s t : State} (h : step s = .next t) : t.cfg = s.cfg := by
  have hf := fetch_cfgIs s
  unfold step at h
  split at h <;> rename_i hq <;> rw [hq] at hf
  · cases h; rfl
  · rename_i a u
    cases a with
    | writeReg num v => exact (hostWriteReg_keeps_cfg h).trans hf
    | writeByte sp addr b => exact (hostWriteByte_keeps_cfg h).trans hf
  · exact (exec_keeps_cfg h).trans hf
  · cases h
    exact (State.takeRefusal_cfg _).trans hf

/-- Settles O8: a step is a host access, which keeps the parameters, or a command, whose body keeps them
(`bodyOf_keeps`). -/
theorem parametersConstant : Obligations.ParametersConstant := fun _ _ h => step_keeps_cfg h

/-- Settles O9: `RESET` clears `STATUS`, and every other instruction is a `command`, which ends with `DONE` set. -/
theorem everyCommandEnds : Obligations.EveryCommandEnds := by
  intro i s
  by_cases hi : i = .reset
  · subst hi
    exact ⟨_, exec_reset s, (s.resetAll_done s.cfg).trans (by decide)⟩
  · obtain ⟨t, ht⟩ := command_next (bodyOf i) s
    exact ⟨t, (exec_eq_command hi s).trans ht, by simpa [hi] using command_done ht⟩

theorem ErrKind.code_eq_notReady {k : ErrKind} (h : k.code = 12#4) : k = .notReady := by
  cases k
  case notReady => rfl
  all_goals exact absurd h (by decide)

theorem State.err_eq_of_status {s t : State} (h : t.status = s.status) : t.err = s.err := by
  simp [State.err, h]

/-- Settles O12: no body of a command raises `NotReady` or touches `STATUS`, so the code 12 can only come from a refusal,
which changes `STATUS` alone (`State.takeRefusal_eq`). -/
theorem refusalChangesOnlyStatus : Obligations.RefusalChangesOnlyStatus := by
  intro i s t hs h ht
  by_cases hi : i = .reset
  · subst hi
    cases h
    rw [State.resetAll_err] at ht
    exact absurd ht (by decide)
  rw [exec_eq_command hi] at h
  have hb := bodyOf_keeps i s
  cases hr : bodyOf i s with
  | ok a u =>
    obtain ⟨hu, -⟩ := Res.keeps_ok_iff.mp (hr ▸ hb)
    rw [command_ok hs hr] at h
    cases h
    rw [State.setDone_err, State.err_eq_of_status hu, hs] at ht
    exact absurd ht (by decide)
  | raised k u =>
    obtain ⟨hk, hu, -⟩ := Res.keeps_raised_iff.mp (hr ▸ hb)
    rw [command_raised hs hr] at h
    cases h
    rw [State.takeFault, State.setDone_err, State.recordErr_err, if_pos ((State.err_eq_of_status hu).trans hs)] at ht
    exact absurd (ErrKind.code_eq_notReady ht) hk
  | refused =>
    rw [command_refused hs hr] at h
    cases h
    rw [State.takeRefusal_eq, if_pos hs]
    rfl

/-! ### Host reads -/

/-- Numbers that no table lists, and `CMD`, answer nothing. -/
theorem hostRead_unlisted {num : Nat} (s : State)
    (h : num = 0x00 ∨ num = 0x0F ∨ (0x14 ≤ num ∧ num ≤ 0x17) ∨ (0x21 ≤ num ∧ num ≤ 0xFF) ∨ 0x401 ≤ num) :
    hostRead num s = none := by
  by_cases hge : 0x21 ≤ num
  · rw [hostRead_of_ge s hge, if_neg (by omega), if_neg (by omega), if_neg (by omega)]
  · obtain rfl | rfl | h14 : num = 0x00 ∨ num = 0x0F ∨ (0x14 ≤ num ∧ num ≤ 0x17) := by omega
    · rfl
    · rfl
    · obtain ⟨h1, h2⟩ := h14
      interval_cases num <;> rfl

/-- A step that finds a write to a register other than `CMD` performs it. -/
theorem step_writeReg {s : State} {num : Nat} {v : Word} {rest : List HostAction}
    (h : s.pending = .writeReg num v :: rest) (hn : num ≠ 0) :
    step s = hostWriteReg num v { s with pending := rest } := by
  simp [step, fetch, h, hn, hostAccess]

/-- A step that finds a write of a byte performs it. -/
theorem step_writeByte {s : State} {sp : Space} {addr : Word} {b : Byte} {rest : List HostAction}
    (h : s.pending = .writeByte sp addr b :: rest) :
    step s = hostWriteByte sp addr.toNat b { s with pending := rest } := by
  simp [step, fetch, h, hostAccess]

theorem hostWriteReg_readBack {num : Nat} (v : Word) (s : State)
    (h : num ∈ [0x01, 0x02, 0x05, 0x06, 0x12, 0x19, 0x1D, 0x1E, 0x20]) :
    ∃ t, hostWriteReg num v s = .next t ∧ hostRead num t = some v := by
  simp only [List.mem_cons, List.not_mem_nil, or_false] at h
  rcases h with rfl | rfl | rfl | rfl | rfl | rfl | rfl | rfl | rfl <;> exact ⟨_, rfl, rfl⟩

theorem hostWriteByte_readBack {addr : Nat} (b : Byte) (s : State) (hl : addr < s.len .art)
    (hc : addr < capacity s.cfg .art) :
    ∃ t, hostWriteByte .art addr b s = .next t ∧ hostReadByte .art addr t = some b := by
  refine ⟨s.writeBytes .art addr [b], by simp [hostWriteByte, hc], ?_⟩
  rw [hostReadByte_inside (.inl rfl) (by simpa using hl) (by simpa using hc), State.writeBytes_byte_same]
  simp

/-- Settles O60, from the laws of `hostRead` and `hostReadByte`. -/
theorem hostReads : Obligations.HostReads := by
  refine ⟨fun s => ?_, fun s => ⟨fun i hi => ⟨hostRead_raw s i hi, hostRead_freqs s i hi⟩, hostRead_cum s⟩,
    fun s num => hostRead_unlisted s, fun s num v rest hp hn => ?_, fun s sp addr => ⟨fun hsp hl hc => ?_, fun h => ?_⟩,
    fun s addr b rest hp hl hc => ?_⟩
  · and_intros <;> rfl
  · rw [step_writeReg hp (by rintro rfl; simp at hn)]
    exact hostWriteReg_readBack v _ hn
  · exact hostReadByte_inside (by simpa using hsp) hl hc
  · exact hostReadByte_outside (by simpa using h)
  · rw [step_writeByte hp]
    exact hostWriteByte_readBack b _ hl hc

end Sys2Proof.Machine


/-! PROOFS. The rANS coder as a state word and a stack of bytes (spec 42_rans): what `RE.PUT` pushes and `RD.GET` pops. -/

namespace Sys2Proof.Machine

/-- The bytes of `RANS` below address `n`, the highest address first: the order in which the decoder reads them. -/
def State.stack (s : State) : Nat → List Byte
  | 0 => []
  | n + 1 => s.byte .rans n :: s.stack n

@[simp] theorem State.stack_length (s : State) (n : Nat) : (s.stack n).length = n := by
  induction n with
  | zero => rfl
  | succ n ih => simp [State.stack, ih]

theorem State.stack_congr {s t : State} {n : Nat} (h : ∀ a, a < n → s.byte .rans a = t.byte .rans a) :
    s.stack n = t.stack n := by
  induction n with
  | zero => rfl
  | succ n ih => simp only [State.stack, h n (by omega), ih fun a ha => h a (by omega)]

/-- Renormalise-out (42_rans R162): bytes of the state go onto the stack while the state is at the bound or above. -/
def shiftOut (bound : Nat) : (fuel : Nat) → Word × List Byte → Word × List Byte
  | 0, d => d
  | fuel + 1, d => if bound ≤ d.1.toNat then shiftOut bound fuel (d.1 >>> 8, d.1.extractLsb' 0 8 :: d.2) else d

/-- Renormalise-in (42_rans R172): bytes of the stack go into the state while it is below `l`. -/
def shiftIn (l : Nat) : List Byte → Word → Word × List Byte
  | [], x => (x, [])
  | b :: st, x => if x.toNat < l then shiftIn l st ((x <<< 8) ||| b.setWidth 32) else (x, b :: st)

/-- `RE.PUT` of a symbol with frequency `f` and cumulative frequency `low`. -/
def encSym (c : Config) (f low : Nat) (d : Word × List Byte) : Word × List Byte :=
  let e := shiftOut (f * 2 ^ c.encBoundShift) 4 d
  (BitVec.ofNat 32 (encUpdate e.1.toNat f low), e.2)

/-- `RD.GET` of a symbol with frequency `f` and cumulative frequency `low`. -/
def decSym (c : Config) (f low : Nat) (d : Word × List Byte) : Word × List Byte :=
  shiftIn c.ransL d.2 (BitVec.ofNat 32 (decUpdate d.1.toNat f (d.1.toNat % probScale) low))

/-- The coder after the symbols listed have been put, the last one first. -/
def encAll (c : Config) (freq low : Byte → Nat) : List Byte → Word × List Byte
  | [] => (BitVec.ofNat 32 c.ransL, [])
  | sym :: syms => encSym c (freq sym) (low sym) (encAll c freq low syms)

/-- From `d` the decoder gets the symbols listed and ends with `e`. -/
def Decodes (c : Config) (freq low : Byte → Nat) : List Byte → Word × List Byte → Word × List Byte → Prop
  | [], d, e => d = e
  | sym :: syms, d, e =>
    low sym ≤ d.1.toNat % probScale ∧ d.1.toNat % probScale < low sym + freq sym ∧
      Decodes c freq low syms (decSym c (freq sym) (low sym) d) e

/-- `cum[sym]`. -/
def State.low (s : State) (sym : Byte) : Nat := s.cumAt sym.toNat

/-- The encoder as a state word and a stack. -/
def State.encoder (s : State) : Word × List Byte := (s.reState, s.stack (s.len .rans))

/-- The decoder as a state word and a stack. -/
def State.decoder (s : State) : Word × List Byte := (s.rdState, s.stack s.rdPtr.toNat)

/-! ### How far the encoder's state and stack grow -/

theorem length_le_shiftOut (bound fuel : Nat) (d : Word × List Byte) : d.2.length ≤ (shiftOut bound fuel d).2.length := by
  induction fuel generalizing d with
  | zero => rfl
  | succ fuel ih =>
    rw [shiftOut]
    split
    · exact (Nat.le_succ _).trans (ih (_, _ :: d.2))
    · rfl

theorem toNat_shiftRight_eight (x : Word) : (x >>> 8).toNat = x.toNat / 256 := by
  simp [Nat.shiftRight_eq_div_pow]

/-- A state below `256^k * bound` is below the bound after at most `k` bytes. -/
theorem shiftOut_bounds {bound k fuel : Nat} {d : Word × List Byte} (h : d.1.toNat < 256 ^ k * bound) (hk : k ≤ fuel) :
    (shiftOut bound fuel d).1.toNat < bound ∧ (shiftOut bound fuel d).2.length ≤ d.2.length + k := by
  induction fuel generalizing d k with
  | zero =>
    obtain rfl : k = 0 := by omega
    exact ⟨by simpa [shiftOut] using h, le_rfl⟩
  | succ fuel ih =>
    rw [shiftOut]
    split
    · cases k with
      | zero => omega
      | succ k =>
        have hlt : (d.1 >>> 8).toNat < 256 ^ k * bound := by
          rw [toNat_shiftRight_eight]
          apply Nat.div_lt_of_lt_mul
          rw [pow_succ] at h
          linarith
        obtain ⟨h1, h2⟩ := ih (d := (d.1 >>> 8, d.1.extractLsb' 0 8 :: d.2)) hlt (by omega)
        exact ⟨h1, by simp only [List.length_cons] at h2; omega⟩
    · exact ⟨by omega, by omega⟩

/-- The bound of the encoder's update (42_rans R176). -/
theorem encUpdate_lt {x f low n : Nat} (hf : 1 ≤ f) (hl : low + f ≤ probScale) (hx : x < f * n) :
    encUpdate x f low < n * probScale := by
  have hm := Nat.mod_lt x hf
  have hd : x / f + 1 ≤ n := Nat.div_lt_of_lt_mul hx
  calc encUpdate x f low < (x / f + 1) * probScale := by rw [encUpdate, Nat.add_mul]; omega
    _ ≤ n * probScale := Nat.mul_le_mul_right _ hd

/-- `RE.INIT` starts below the bound `2^(ENC_BOUND_SHIFT + PROB_BITS)` that 42_rans R176 gives for an open encoder. -/
def EncoderFits (c : Config) : Prop := c.ransL < 2 ^ c.encBoundShift * probScale

section Tables
variable {c : Config} {freq low : Byte → Nat}

/-- A symbol appends at most two bytes and keeps the state below its bound (42_rans R176, R180). -/
theorem encSym_bounds {f low : Nat} {d : Word × List Byte} (hf : 1 ≤ f) (hl : low + f ≤ probScale)
    (hd : d.1.toNat < 2 ^ c.encBoundShift * probScale) :
    (encSym c f low d).1.toNat < 2 ^ c.encBoundShift * probScale ∧ (encSym c f low d).2.length ≤ d.2.length + 2 := by
  have hlt : d.1.toNat < 256 ^ 2 * (f * 2 ^ c.encBoundShift) := by
    have h1 : 2 ^ c.encBoundShift ≤ f * 2 ^ c.encBoundShift := Nat.le_mul_of_pos_left _ hf
    have h2 : probScale ≤ 256 ^ 2 := by decide
    calc d.1.toNat < 2 ^ c.encBoundShift * probScale := hd
      _ ≤ (f * 2 ^ c.encBoundShift) * 256 ^ 2 := Nat.mul_le_mul h1 h2
      _ = 256 ^ 2 * (f * 2 ^ c.encBoundShift) := Nat.mul_comm _ _
  obtain ⟨h1, h2⟩ := shiftOut_bounds (fuel := 4) hlt (by decide)
  refine ⟨?_, h2⟩
  rw [encSym, BitVec.toNat_ofNat]
  exact (Nat.mod_le _ _).trans_lt (encUpdate_lt hf hl h1)

theorem encAll_bounds (hc : EncoderFits c) {syms : List Byte} (hf : ∀ sym ∈ syms, 1 ≤ freq sym)
    (hl : ∀ sym, low sym + freq sym ≤ probScale) :
    (encAll c freq low syms).1.toNat < 2 ^ c.encBoundShift * probScale ∧
      (encAll c freq low syms).2.length ≤ 2 * syms.length := by
  induction syms with
  | nil =>
    rw [encAll, BitVec.toNat_ofNat]
    exact ⟨(Nat.mod_le _ _).trans_lt hc, le_rfl⟩
  | cons sym syms ih =>
    obtain ⟨h1, h2⟩ := ih fun x hx => hf x (List.mem_cons_of_mem _ hx)
    obtain ⟨h3, h4⟩ := encSym_bounds (hf sym List.mem_cons_self) (hl sym) h1
    exact ⟨h3, h4.trans (by simp only [List.length_cons]; omega)⟩

/-! ### The decoder undoes the encoder for consistent constants (42_rans R178, case 2) -/

/-- Shifting a byte out and in again. -/
theorem shift_byte_back (x : Word) : ((x >>> 8) <<< 8) ||| (x.extractLsb' 0 8).setWidth 32 = x := by
  ext i hi
  simp only [BitVec.getElem_or, BitVec.getElem_shiftLeft, BitVec.getElem_setWidth, BitVec.getLsbD_extractLsb']
  by_cases h : i < 8
  · simp [h, BitVec.getLsbD_eq_getElem hi]
  · simp [h, show 8 + (i - 8) = i by omega, BitVec.getLsbD_eq_getElem hi]

/-- Renormalise-in undoes renormalise-out where the state stood in `[l, 256 * l)`. -/
theorem shiftIn_shiftOut {l bound fuel : Nat} {x : Word} {st : List Byte} (h1 : l ≤ x.toNat) (h2 : x.toNat < 256 * l) :
    shiftIn l (shiftOut bound fuel (x, st)).2 (shiftOut bound fuel (x, st)).1 = (x, st) := by
  have hstop : ∀ st, shiftIn l st x = (x, st) := by
    intro st
    cases st with
    | nil => rfl
    | cons b st => rw [shiftIn, if_neg (by omega)]
  suffices hgen : ∀ (fuel : Nat) (y : Word) (sty : List Byte), shiftIn l sty y = (x, st) → y.toNat < 256 * l →
      shiftIn l (shiftOut bound fuel (y, sty)).2 (shiftOut bound fuel (y, sty)).1 = (x, st) from
    hgen fuel x st (hstop st) h2
  intro fuel
  induction fuel with
  | zero => exact fun y sty hy _ => hy
  | succ fuel ih =>
    intro y sty hy hlt
    rw [shiftOut]
    split
    · have hsmall : (y >>> 8).toNat < l := by rw [toNat_shiftRight_eight]; omega
      refine ih _ _ ?_ (by dsimp only; omega)
      rw [shiftIn, if_pos hsmall, shift_byte_back, hy]
    · exact hy

/-- The state interval `[RANS_L, 256 * RANS_L)` and the encoder's bound as multiples of one number `q`: the consistent constants
of 00_scope R6 with a `RANS_L` that is a multiple of `PROB_SCALE`. -/
theorem renormConsistent_factor {c : Config} (hc : c.RenormConsistent) (hm : c.ransL % 4096 = 0) :
    ∃ q, c.ransL = q * probScale ∧ 2 ^ c.encBoundShift = 256 * q ∧ c.ransL ≤ 2 ^ 24 := by
  obtain ⟨h1, h2, h3⟩ := hc
  refine ⟨c.ransL / probScale, (Nat.div_mul_cancel (Nat.dvd_of_mod_eq_zero hm)).symm, ?_, by omega⟩
  rw [h1, Nat.shiftLeft_eq, Nat.shiftRight_eq_div_pow, Nat.mul_comm]
  rfl

/-- A byte shifted out leaves at least `bound / 256`; a state that stays is at least what it was. -/
theorem le_shiftOut {m fuel : Nat} {d : Word × List Byte} (h : m ≤ d.1.toNat) :
    m ≤ (shiftOut (256 * m) fuel d).1.toNat := by
  induction fuel generalizing d with
  | zero => exact h
  | succ fuel ih =>
    rw [shiftOut]
    split
    · exact ih (by rw [toNat_shiftRight_eight]; omega)
    · exact h

/-- For consistent constants `RE.PUT` keeps the state in `[RANS_L, 256 * RANS_L)` and `RD.GET` undoes it. -/
theorem decSym_encSym (hc : c.RenormConsistent) (hm : c.ransL % 4096 = 0) {f low : Nat} (hf : 1 ≤ f)
    (hl : low + f ≤ probScale) {d : Word × List Byte} (h1 : c.ransL ≤ d.1.toNat) (h2 : d.1.toNat < 256 * c.ransL) :
    (c.ransL ≤ (encSym c f low d).1.toNat ∧ (encSym c f low d).1.toNat < 256 * c.ransL) ∧
      (encSym c f low d).1.toNat % probScale = (shiftOut (f * 2 ^ c.encBoundShift) 4 d).1.toNat % f + low ∧
      decSym c f low (encSym c f low d) = d := by
  obtain ⟨q, hq, hs, hle⟩ := renormConsistent_factor hc hm
  have hshift : 2 ^ c.encBoundShift * probScale = 256 * c.ransL := by rw [hs, hq, Nat.mul_assoc]
  have hbound : f * 2 ^ c.encBoundShift = 256 * (f * q) := by rw [hs, Nat.mul_left_comm]
  have hfq : f * q ≤ d.1.toNat := by
    refine le_trans ?_ h1
    rw [hq, Nat.mul_comm]
    exact Nat.mul_le_mul_left _ (by omega)
  have hlt : d.1.toNat < 256 ^ 2 * (f * 2 ^ c.encBoundShift) := by
    have : 2 ^ c.encBoundShift ≤ f * 2 ^ c.encBoundShift := Nat.le_mul_of_pos_left _ hf
    have hp : probScale = 4096 := rfl
    rw [hp] at hshift
    omega
  obtain ⟨hx, -⟩ := shiftOut_bounds (fuel := 4) hlt (by decide)
  have hx' : f * q ≤ (shiftOut (f * 2 ^ c.encBoundShift) 4 d).1.toNat := by
    rw [hbound]
    exact le_shiftOut hfq
  have hround := shiftIn_shiftOut (bound := f * 2 ^ c.encBoundShift) (fuel := 4) (st := d.2) h1 h2
  rw [encSym]
  generalize shiftOut (f * 2 ^ c.encBoundShift) 4 d = e at hx hx' hround ⊢
  have hup : encUpdate e.1.toNat f low < 256 * c.ransL := hshift ▸ encUpdate_lt hf hl hx
  have hlo : c.ransL ≤ encUpdate e.1.toNat f low := by
    have : q ≤ e.1.toNat / f := (Nat.le_div_iff_mul_le hf).mpr (by rwa [Nat.mul_comm])
    rw [hq, encUpdate, Nat.add_assoc]
    exact (Nat.mul_le_mul_right _ this).trans (Nat.le_add_right _ _)
  have hn : (BitVec.ofNat 32 (encUpdate e.1.toNat f low)).toNat = encUpdate e.1.toNat f low := by
    rw [BitVec.toNat_ofNat]
    exact Nat.mod_eq_of_lt (by omega)
  refine ⟨by dsimp only; rw [hn]; exact ⟨hlo, hup⟩, by dsimp only; rw [hn]; exact (encUpdate_slot hf hl).1, ?_⟩
  rw [decSym]
  dsimp only
  rw [hn, decUpdate_encUpdate hf hl, BitVec.ofNat_toNat, BitVec.setWidth_eq]
  exact hround

/-- Decoding reverses encoding for consistent constants (42_rans R178, case 2). -/
theorem decodes_encAll (hc : c.RenormConsistent) (hm : c.ransL % 4096 = 0) {syms : List Byte}
    (hf : ∀ sym ∈ syms, 1 ≤ freq sym) (hl : ∀ sym, low sym + freq sym ≤ probScale) :
    (c.ransL ≤ (encAll c freq low syms).1.toNat ∧ (encAll c freq low syms).1.toNat < 256 * c.ransL) ∧
      Decodes c freq low syms (encAll c freq low syms) (BitVec.ofNat 32 c.ransL, []) := by
  induction syms with
  | nil =>
    obtain ⟨q, hq, -, hle⟩ := renormConsistent_factor hc hm
    have hn : (BitVec.ofNat 32 c.ransL).toNat = c.ransL := by
      rw [BitVec.toNat_ofNat]
      exact Nat.mod_eq_of_lt (by omega)
    have hpos : 4096 ≤ c.ransL := hc.2.1
    refine ⟨?_, rfl⟩
    rw [encAll]
    dsimp only
    rw [hn]
    omega
  | cons sym syms ih =>
    obtain ⟨⟨h1, h2⟩, h3⟩ := ih fun x hx => hf x (List.mem_cons_of_mem _ hx)
    have hfs := hf sym List.mem_cons_self
    obtain ⟨h4, h5, h6⟩ := decSym_encSym hc hm hfs (hl sym) h1 h2
    have hmod := Nat.mod_lt (shiftOut (freq sym * 2 ^ c.encBoundShift) 4 (encAll c freq low syms)).1.toNat hfs
    refine ⟨h4, ?_, ?_, ?_⟩
    · rw [encAll, h5]; omega
    · rw [encAll, h5]; omega
    · rw [encAll, h6]
      exact h3

end Tables

end Sys2Proof.Machine


/-! PROOFS. The rANS commands as pushes and pops (spec 42_rans R161 to R178). -/

namespace Sys2Proof.Machine

/-- The state but for what the encoder writes: `RANS` and `RE.state`. -/
def State.withoutEncoder (s : State) : State := (s.setBuf .rans (Buf.fresh 0)).setReState 0#32

section EncoderFrame
variable {s t : State} (h : t.withoutEncoder = s.withoutEncoder)
include h

theorem freq_of_withoutEncoder : t.freq = s.freq := by
  have : t.freqs = s.freqs := (congrArg State.freqs h :)
  funext sym
  rw [State.freq, State.freq, this]

theorem cumAt_of_withoutEncoder : t.cumAt = s.cumAt := by
  have : t.cum = s.cum := (congrArg State.cum h :)
  funext i
  rw [State.cumAt, State.cumAt, this]

theorem low_of_withoutEncoder : t.low = s.low := by
  funext sym
  rw [State.low, State.low, cumAt_of_withoutEncoder h]

theorem isValid_of_withoutEncoder (u : ValidBit) : t.isValid u = s.isValid u := by
  have : t.valid = s.valid := (congrArg State.valid h :)
  rw [State.isValid, State.isValid, this]

theorem buf_of_withoutEncoder {sp : Space} (hsp : sp ≠ .rans) : t.buf sp = s.buf sp := by
  have := congrArg (fun u => u.buf sp) h
  simpa [State.withoutEncoder, hsp] using this

end EncoderFrame

/-! ### `RE.PUT` pushes -/

theorem append_rans_frame {c : Config} {b : Byte} {s t : State} (h : append c .rans b s = .ok () t) :
    t.withoutEncoder = s.withoutEncoder ∧ t.reState = s.reState := by
  rw [append_frame h]
  exact ⟨rfl, rfl⟩

theorem emitBytes_frame {c : Config} {bound fuel : Nat} {s t : State} (h : emitBytes c bound fuel s = .ok () t) :
    t.withoutEncoder = s.withoutEncoder := by
  induction fuel generalizing s with
  | zero => cases h; rfl
  | succ fuel ih =>
    rw [emitBytes] at h
    split at h
    · obtain ⟨⟨⟩, u, hu, ht⟩ := Res.bind_eq_ok.mp h
      exact (ih ht).trans (append_rans_frame hu).1
    · cases h; rfl

/-- A byte appended to `RANS` is a byte pushed. -/
theorem append_rans_stack {c : Config} (hc : c.Bounded) {b : Byte} {s t : State} (h : append c .rans b s = .ok () t) :
    t.stack (t.len .rans) = b :: s.stack (s.len .rans) := by
  obtain ⟨-, hlen, hbyte, hkeep, -⟩ := append_spec hc h
  rw [hlen, State.stack, hbyte, State.stack_congr fun a ha => hkeep a (by omega)]

/-- With room for what it pushes, renormalise-out is accepted. -/
theorem emitBytes_encoder {c : Config} (hc : c.Bounded) {bound fuel : Nat} {s : State}
    (hroom : (shiftOut bound fuel s.encoder).2.length ≤ capacity c .rans) :
    ∃ t, emitBytes c bound fuel s = .ok () t ∧ t.encoder = shiftOut bound fuel s.encoder := by
  induction fuel generalizing s with
  | zero => exact ⟨s, rfl, rfl⟩
  | succ fuel ih =>
    by_cases hb : bound ≤ s.reState.toNat
    · have hstep : shiftOut bound (fuel + 1) s.encoder = shiftOut bound fuel
          (s.reState >>> 8, s.reState.extractLsb' 0 8 :: s.stack (s.len .rans)) := if_pos hb
      rw [hstep] at hroom ⊢
      have hlen := (length_le_shiftOut bound fuel
        (s.reState >>> 8, s.reState.extractLsb' 0 8 :: s.stack (s.len .rans))).trans hroom
      simp only [List.length_cons, State.stack_length] at hlen
      obtain ⟨u, hu⟩ : ∃ u, append c .rans (s.reState.extractLsb' 0 8) s = .ok () u := ⟨_, append_ok _ (by omega)⟩
      have hre := (append_rans_frame hu).2
      have henc : (u.setReState (s.reState >>> 8)).encoder =
          (s.reState >>> 8, s.reState.extractLsb' 0 8 :: s.stack (s.len .rans)) := by
        rw [← append_rans_stack hc hu, State.encoder, State.setReState_len,
          State.stack_congr fun a _ => State.setReState_byte _ u .rans a, State.setReState_reState]
      obtain ⟨t, ht, he⟩ := ih (s := u.setReState (s.reState >>> 8)) (by rwa [henc])
      refine ⟨t, ?_, by rw [he, henc]⟩
      rw [emitBytes_step hb, hu, Res.bind_ok, hre, ht]
    · exact ⟨s, emitBytes_done (by omega), (if_neg hb).symm⟩

/-- What `RE.PUT` leaves where it is accepted. -/
theorem rePut_frame {c : Config} {sym : Byte} {s t : State} (h : rePut c sym s = .ok () t) :
    t.withoutEncoder = s.withoutEncoder := by
  rw [rePut] at h
  rcases checked_cases c _ [] s _ with hr | hr | ⟨-, -, hr⟩ <;> rw [hr] at h
  · cases h
  · cases h
  · dsimp only at h
    split at h
    · cases h
    · obtain ⟨⟨⟩, u, hu, ht⟩ := Res.bind_eq_ok.mp h
      cases ht
      exact (emitBytes_frame hu :)

/-- With the encoder open, a symbol of the model and room for its bytes, `RE.PUT` is accepted and pushes. -/
theorem rePut_encoder {c : Config} (hc : c.Bounded) {sym : Byte} {s : State} (hre : s.isValid .re = true)
    (hss : s.isValid .ss = true) (hf : 1 ≤ s.freq sym)
    (hroom : (encSym c (s.freq sym) (s.low sym) s.encoder).2.length ≤ capacity c .rans) :
    ∃ t, rePut c sym s = .ok () t ∧ t.encoder = encSym c (s.freq sym) (s.low sym) s.encoder := by
  obtain ⟨t, ht, he⟩ := emitBytes_encoder hc (fuel := 4) (s := s) (bound := s.freq sym * 2 ^ c.encBoundShift) hroom
  refine ⟨t.setReState (BitVec.ofNat 32 (encUpdate t.reState.toNat (s.freq sym) (s.low sym))), ?_, ?_⟩
  · rw [rePut, checked_pass (by simp [hre, hss]) (by simp)]
    dsimp only
    rw [if_neg (by omega), ht]
    rfl
  · rw [encSym, ← he, State.encoder, State.setReState_len, State.stack_congr fun a _ => State.setReState_byte _ t .rans a]
    rfl

/-- An open encoder over a model, in the state that putting `syms`, the last one first, leaves. -/
structure State.HasPut (c : Config) (s : State) (syms : List Byte) : Prop where
  re : s.isValid .re = true
  ss : s.isValid .ss = true
  encoder : s.encoder = encAll c s.freq s.low syms

/-- `RE.INIT` opens an encoder that has put nothing. -/
theorem reInit_hasPut (c : Config) {s : State} (hss : s.isValid .ss = true) : (reInit c s).HasPut c [] where
  re := by simp [reInit, State.setValid_isValid]
  ss := by simp [reInit, State.setValid_isValid, hss]
  encoder := by
    have hlen : (reInit c s).len .rans = 0 := by simp [reInit]
    rw [State.encoder, hlen]
    simp [reInit, State.stack, encAll]

theorem rePut_hasPut {c : Config} (hc : c.Bounded) (hfit : EncoderFits c) {sym : Byte} {syms : List Byte} {s : State}
    (hs : s.HasPut c syms) (hm : s.ModelOk) (hf : ∀ x ∈ sym :: syms, 1 ≤ s.freq x) (hn : syms.length + 1 ≤ c.nMax) :
    ∃ t, rePut c sym s = .ok () t ∧ t.HasPut c (sym :: syms) ∧ t.withoutEncoder = s.withoutEncoder := by
  have hbound := encAll_bounds hfit (low := s.low) hf hm.freq_le
  simp only [encAll, ← hs.encoder] at hbound
  obtain ⟨t, ht, he⟩ := rePut_encoder hc hs.re hs.ss (hf sym List.mem_cons_self)
    (hbound.2.trans (by simp only [List.length_cons, capacity]; omega))
  have hframe := rePut_frame ht
  refine ⟨t, ht, ⟨?_, ?_, ?_⟩, hframe⟩
  · rw [isValid_of_withoutEncoder hframe, hs.re]
  · rw [isValid_of_withoutEncoder hframe, hs.ss]
  · rw [freq_of_withoutEncoder hframe, low_of_withoutEncoder hframe, he, encAll, ← hs.encoder]

theorem modelOk_of_withoutEncoder {s t : State} (h : t.withoutEncoder = s.withoutEncoder) (hm : s.ModelOk) :
    t.ModelOk := by
  rw [State.ModelOk, freq_of_withoutEncoder h, cumAt_of_withoutEncoder h]
  exact hm

/-- `RE.PUT` of a list of symbols is accepted. -/
theorem putAll_hasPut {c : Config} (hc : c.Bounded) (hfit : EncoderFits c) {syms put : List Byte} {s : State}
    (hs : s.HasPut c put) (hm : s.ModelOk) (hf : ∀ x ∈ syms ++ put, 1 ≤ s.freq x)
    (hn : syms.length + put.length ≤ c.nMax) :
    ∃ t, putAll c syms s = .ok () t ∧ t.HasPut c (syms.reverse ++ put) ∧ t.withoutEncoder = s.withoutEncoder := by
  induction syms generalizing s put with
  | nil => exact ⟨s, rfl, hs, rfl⟩
  | cons sym syms ih =>
    simp only [List.length_cons] at hn
    obtain ⟨u, hu, hput, hframe⟩ := rePut_hasPut hc hfit hs hm
      (fun x hx => hf x (by simp only [List.mem_append, List.mem_cons] at hx ⊢; tauto)) (by omega)
    obtain ⟨t, ht, hput', hframe'⟩ := ih hput (modelOk_of_withoutEncoder hframe hm)
      (fun x hx => by
        rw [freq_of_withoutEncoder hframe]
        exact hf x (by simp only [List.mem_append, List.mem_cons] at hx ⊢; tauto))
      (by simp only [List.length_cons]; omega)
    refine ⟨t, by rw [putAll, hu, Res.bind_ok, ht], ?_, hframe'.trans hframe⟩
    simpa using hput'

theorem State.bytes_succ (s : State) (sp : Space) (a n : Nat) : s.bytes sp a (n + 1) = s.bytes sp a n ++ [s.byte sp (a + n)] := by
  simp [State.bytes, List.range_succ]

/-- The literals in reverse token order are the list of the literals, put from its end (42_rans R174). -/
theorem putLiterals_eq_putAll (c : Config) (n : Nat) (s : State) :
    putLiterals c n s = putAll c (s.bytes .lit 0 n).reverse s := by
  induction n generalizing s with
  | zero => rfl
  | succ n ih =>
    have hrev : (s.bytes .lit 0 (n + 1)).reverse = s.byte .lit n :: (s.bytes .lit 0 n).reverse := by
      rw [State.bytes_succ, List.reverse_append, Nat.zero_add]
      rfl
    rw [putLiterals, hrev, putAll]
    cases hr : rePut c (s.byte .lit n) s with
    | ok a u =>
      rw [Res.bind_ok, Res.bind_ok, ih]
      rw [State.bytes_congr (buf_of_withoutEncoder (rePut_frame hr) (by decide))]
    | raised k u => rfl
    | refused => rfl

/-! ### `RE.FLUSH` and `RD.INIT` hand the coder over -/

/-- `RE.FLUSH` of an open encoder with room for four bytes: the stack stays, the state stands above it, and the encoder is
closed (42_rans R168). -/
theorem reFlush_encoder {c : Config} (hc : c.Bounded) {s : State} (hre : s.isValid .re = true)
    (hroom : s.len .rans + 4 ≤ capacity c .rans) :
    ∃ t, reFlush c s = .ok () t ∧ t.len .rans = s.len .rans + 4 ∧ t.stack (s.len .rans) = s.stack (s.len .rans) ∧
      t.field32 .rans (s.len .rans) = s.reState ∧ t = (s.setBuf .rans (t.buf .rans)).clearValid .re := by
  obtain ⟨u, hu⟩ := appendList_ok hc (sp := .rans) (bs := bytesLe32 s.reState) (s := s) hroom
  obtain ⟨hframe, hlen, hbytes, hkeep, -⟩ := appendList_spec hc hu
  refine ⟨u.clearValid .re, ?_, ?_, ?_, ?_, ?_⟩
  · rw [reFlush, checked_pass hre (by simp), hu]
    rfl
  · simpa using hlen
  · exact State.stack_congr fun a ha => by rw [State.clearValid_byte, hkeep a (.inl ha)]
  · have hlt : (bytesLe32 s.reState).length = 4 := rfl
    have h0 := hbytes 0 (by omega)
    rw [Nat.add_zero] at h0
    rw [State.field32, State.clearValid_byte, State.clearValid_byte, State.clearValid_byte, State.clearValid_byte, h0,
      hbytes 1 (by omega), hbytes 2 (by omega), hbytes 3 (by omega)]
    exact le32_bytesLe32 s.reState
  · rw [State.clearValid_buf]
    exact congrArg _ hframe

/-- `RD.INIT` with four bytes or more: the field on top of the stack is the state (42_rans R170). -/
theorem rdInit_decoder {c : Config} {s : State} {n : Nat} (hlen : s.len .rans = n + 4) (hcap : s.len .rans ≤ capacity c .rans) :
    ∃ x p, rdInit c s = .ok () ((s.setDecoder x p).setValid .rd) ∧
      ((s.setDecoder x p).setValid .rd).decoder = (s.field32 .rans n, s.stack n) := by
  refine ⟨s.field32 .rans (s.len .rans - 4), s.rans.len - 4#32, ?_, ?_⟩
  · rw [rdInit, checked_pass (by simp [hlen]) (by simpa using hcap)]
  · have hw : s.len .rans = s.rans.len.toNat := rfl
    have hp : (s.rans.len - 4#32).toNat = n := by
      have := s.rans.len.isLt
      rw [BitVec.toNat_sub]
      simp
      omega
    have hn : s.len .rans - 4 = n := by omega
    simp only [State.decoder, State.setValid_rdPtr, State.setDecoder_rdPtr, State.setValid_rdState,
      State.setDecoder_rdState, hp, hn]
    rw [State.stack_congr fun a _ => (State.setValid_byte _ _ _ _).trans (State.setDecoder_byte _ _ s _ a)]

/-! ### `RD.GET` pops -/

/-- Renormalise-in over a buffer is renormalise-in over its stack. -/
theorem refill_stack (c : Config) (s : State) (ptr : Nat) (x : Word) :
    (refill c s ptr x).1 = (shiftIn c.ransL (s.stack ptr) x).1 ∧ (refill c s ptr x).2 ≤ ptr ∧
      s.stack (refill c s ptr x).2 = (shiftIn c.ransL (s.stack ptr) x).2 := by
  induction ptr generalizing x with
  | zero => exact ⟨rfl, le_rfl, rfl⟩
  | succ ptr ih =>
    rw [refill, State.stack, shiftIn]
    split
    · obtain ⟨h1, h2, h3⟩ := ih ((x <<< 8) ||| (s.byte .rans ptr).setWidth 32)
      exact ⟨h1, by omega, h3⟩
    · exact ⟨rfl, le_rfl, rfl⟩

/-- With the decoder ready and the slot in the interval of `sym`, `RD.GET` answers `sym` and pops. -/
theorem rdGet_decoder {c : Config} {s : State} {sym : Byte} (hrd : s.isValid .rd = true) (hss : s.isValid .ss = true)
    (hm : s.ModelOk) (hcap : s.len .rans ≤ capacity c .rans) (h1 : s.low sym ≤ s.decoder.1.toNat % probScale)
    (h2 : s.decoder.1.toNat % probScale < s.low sym + s.freq sym) :
    ∃ x p, rdGet c s = .ok sym (s.setDecoder x p) ∧
      (s.setDecoder x p).decoder = decSym c (s.freq sym) (s.low sym) s.decoder := by
  have hlook : s.lookup (s.rdState.toNat % probScale) = sym := State.lookup_eq hm h1 h2
  have hfull : s.modelFull = true := by simp [State.modelFull, hm.2.2]
  obtain ⟨y, hy⟩ : ∃ y, y = BitVec.ofNat 32 (decUpdate s.rdState.toNat (s.freq sym) (s.rdState.toNat % probScale) (s.low sym)) :=
    ⟨_, rfl⟩
  obtain ⟨hx, hle, hst⟩ := refill_stack c s s.rdPtr.toNat y
  refine ⟨(refill c s s.rdPtr.toNat y).1, BitVec.ofNat 32 (refill c s s.rdPtr.toNat y).2, ?_, ?_⟩
  · rw [rdGet, checked_pass (by simp [hrd, hss, hfull]) (by simpa using hcap)]
    dsimp only
    rw [hlook, hy]
    rfl
  · have hp := s.rdPtr.isLt
    rw [State.decoder, State.setDecoder_rdState, State.setDecoder_rdPtr,
      State.stack_congr fun a _ => State.setDecoder_byte _ _ s .rans a, BitVec.toNat_ofNat,
      Nat.mod_eq_of_lt (by omega), decSym, State.decoder]
    dsimp only
    rw [← hy]
    exact Prod.ext hx hst

/-- `RD.GET` as often as there are symbols to decode. -/
theorem getAll_decodes {c : Config} {syms : List Byte} {s : State} {e : Word × List Byte} (hrd : s.isValid .rd = true)
    (hss : s.isValid .ss = true) (hm : s.ModelOk) (hcap : s.len .rans ≤ capacity c .rans)
    (hd : Decodes c s.freq s.low syms s.decoder e) :
    ∃ t, getAll c syms.length s = .ok syms t ∧ t.decoder = e := by
  induction syms generalizing s with
  | nil => exact ⟨s, rfl, hd⟩
  | cons sym syms ih =>
    obtain ⟨h1, h2, hd⟩ := hd
    obtain ⟨x, p, hget, hdec⟩ := rdGet_decoder hrd hss hm hcap h1 h2
    obtain ⟨t, ht, he⟩ := ih (s := s.setDecoder x p) hrd hss hm (by simpa using hcap) (by rw [hdec]; exact hd)
    exact ⟨t, by rw [List.length_cons, getAll, hget, Res.bind_ok, ht]; rfl, he⟩

/-- Consistent constants start the encoder below its bound. -/
theorem renormConsistent_encoderFits {c : Config} (hc : c.RenormConsistent) : EncoderFits c := by
  obtain ⟨h1, h2, -⟩ := hc
  have hpow : probScale = 4096 := rfl
  rw [EncoderFits, h1, Nat.shiftLeft_eq, Nat.shiftRight_eq_div_pow]
  change c.ransL < c.ransL / 4096 * 2 ^ 8 * 4096
  rw [hpow] at h2
  omega

/-- So do the document's. -/
theorem documented_encoderFits {c : Config} (hc : c.Documented) : EncoderFits c := by
  rw [EncoderFits, hc.1, hc.2]
  decide

/-- Settles O31: `RE.PUT` pushes (`putAll_hasPut`), `RE.FLUSH` and `RD.INIT` hand the state and the stack over, and `RD.GET`
pops what was pushed (`decodes_encAll`, `getAll_decodes`). -/
theorem reversalUnderRenormConsistent : Obligations.ReversalUnderRenormConsistent := by
  intro c s syms hc hrc hmul hss hm hf hn
  have hm₀ : (reInit c s).ModelOk := hm
  obtain ⟨t, ht, hput, hframe⟩ := putAll_hasPut hc (renormConsistent_encoderFits hrc) (reInit_hasPut c hss) hm₀
    (syms := syms) (by rw [List.append_nil]; exact hf) (by simpa using hn)
  have hmt := modelOk_of_withoutEncoder hframe hm₀
  have hfreq : t.freq = s.freq := (freq_of_withoutEncoder hframe :)
  rw [List.append_nil] at hput
  have hft : ∀ sym ∈ syms.reverse, 1 ≤ t.freq sym := by simpa [hfreq] using hf
  have hlen := (encAll_bounds (renormConsistent_encoderFits hrc) (low := t.low) hft hmt.freq_le).2
  rw [← hput.encoder] at hlen
  simp only [State.encoder, State.stack_length, List.length_reverse] at hlen
  obtain ⟨u, hu, hulen, hustack, hufield, huframe⟩ := reFlush_encoder hc hput.re (by simp only [capacity]; omega)
  obtain ⟨x, p, hv, hvdec⟩ := rdInit_decoder (c := c) hulen (by simp only [capacity]; omega)
  have hdec : ((u.setDecoder x p).setValid .rd).decoder = encAll c t.freq t.low syms.reverse := by
    rw [hvdec, hufield, hustack, ← hput.encoder]
    rfl
  obtain ⟨-, hdecodes⟩ := decodes_encAll hrc hmul (low := t.low) hft hmt.freq_le
  rw [huframe] at hdec hulen hv
  obtain ⟨w, hw, hwdec⟩ := getAll_decodes (c := c) (syms := syms.reverse)
    (s := (((t.setBuf .rans (u.buf .rans)).clearValid .re).setDecoder x p).setValid .rd)
    (e := (BitVec.ofNat 32 c.ransL, []))
    (by simp [State.setValid_isValid]) (by simp [State.setValid_isValid, State.clearValid_isValid, hput.ss]) hmt
    (by simp only [State.setValid_len, State.setDecoder_len, hulen, capacity]; omega) (by rw [hdec]; exact hdecodes)
  rw [← huframe] at hv
  rw [List.length_reverse] at hw
  refine ⟨t, u, _, w, ht, hu, hv, ?_, congrArg Prod.fst hwdec, ?_⟩
  · rw [← hw, ← huframe]
  · have hptr : (w.stack w.rdPtr.toNat).length = 0 := congrArg (fun d => d.2.length) hwdec
    rw [State.stack_length] at hptr
    exact BitVec.eq_of_toNat_eq hptr

end Sys2Proof.Machine


/-! PROOFS. The parser's output as a list of pieces that cover the input (spec 43_lz77 R192 to R198), and the flag region a flush
leaves (40_bitio R124, R130). -/

namespace Sys2Proof.Machine

/-! ### Contents of a buffer after an append -/

theorem State.contents_congr {s t : State} {sp : Space} (h : t.buf sp = s.buf sp) : t.contents sp = s.contents sp := by
  rw [State.contents, State.contents, State.bytes_congr h, State.len_congr h]

theorem State.bytes_eq_of_byte {s t : State} {sp : Space} {a n : Nat} (h : ∀ k, k < n → t.byte sp (a + k) = s.byte sp (a + k)) :
    t.bytes sp a n = s.bytes sp a n :=
  List.map_congr_left fun k hk => h k (List.mem_range.mp hk)

theorem State.bytes_add (s : State) (sp : Space) (a m n : Nat) :
    s.bytes sp a (m + n) = s.bytes sp a m ++ s.bytes sp (a + m) n := by
  simp [State.bytes, List.range_add, Nat.add_assoc]

/-- A range that reads the bytes of a list is that list. -/
theorem State.bytes_eq_list {s : State} {sp : Space} {a : Nat} {bs : List Byte}
    (h : ∀ k, (hk : k < bs.length) → s.byte sp (a + k) = bs[k]) : s.bytes sp a bs.length = bs := by
  refine List.ext_getElem (by simp) fun k hk hk' => ?_
  rw [State.bytes_getElem, h k hk']

theorem appendList_contents {c : Config} (hc : c.Bounded) {sp : Space} {bs : List Byte} {s t : State}
    (h : appendList c sp bs s = .ok () t) : t.contents sp = s.contents sp ++ bs := by
  obtain ⟨-, hlen, hnew, hkeep, -⟩ := appendList_spec hc h
  rw [State.contents, hlen, State.bytes_add, Nat.zero_add, State.bytes_eq_list hnew,
    State.bytes_eq_of_byte fun k hk => hkeep _ (.inl (by omega))]
  rfl

theorem append_eq_appendList (c : Config) (sp : Space) (b : Byte) (s : State) :
    append c sp b s = appendList c sp [b] s := by
  rw [appendList]
  cases append c sp b s <;> rfl

/-! ### The writer -/

/-- The state but for what the BitWriter writes: `FLAGS`, `BW.cur` and `BW.cnt`. -/
def State.withoutWriter (s : State) : State := (s.setBuf .flags (Buf.fresh 0)).setWriter 0#8 0#3

theorem State.writerBits_length (s : State) : s.writerBits.length = 8 * s.len .flags + s.bwCnt.toNat := by
  simp [State.writerBits]

theorem setWriter_withoutWriter (cur : Byte) (cnt : BitVec 3) (s : State) :
    (s.setWriter cur cnt).withoutWriter = s.withoutWriter := rfl

theorem append_flags_withoutWriter {c : Config} {b : Byte} {s t : State} (h : append c .flags b s = .ok () t) :
    t.withoutWriter = s.withoutWriter := by
  rw [append_frame h]
  rfl

theorem buf_of_withoutWriter {s t : State} (h : t.withoutWriter = s.withoutWriter) {sp : Space} (hsp : sp ≠ .flags) :
    t.buf sp = s.buf sp := by
  have := congrArg (fun u => u.buf sp) h
  simpa [State.withoutWriter, hsp] using this

/-- An open writer with room takes a bit. -/
theorem bwWbit_ok {c : Config} {b : Bool} {s : State} (ho : bwOpen c s = true)
    (hroom : s.bwCnt = 7#3 → s.len .flags < capacity c .flags) :
    ∃ t, bwWbit c b s = .ok () t ∧ t.withoutWriter = s.withoutWriter := by
  by_cases h7 : s.bwCnt = 7#3
  · refine ⟨_, bwWbit_full ho h7 (hroom h7), ?_⟩
    exact (setWriter_withoutWriter _ _ _).trans (append_flags_withoutWriter (append_ok (withBit s b) (hroom h7)))
  · exact ⟨_, bwWbit_room ho h7, rfl⟩

/-- A flush leaves the bits the writer holds as the flag region, padded with zeros (40_bitio R124, R130). -/
theorem bwFlush_flags {c : Config} (hc : c.Bounded) {s : State} (hw : s.WriterInv)
    (hroom : s.bwCnt ≠ 0#3 → s.len .flags < capacity c .flags) :
    ∃ t, bwFlush c s = .ok () t ∧ t.withoutWriter = (s.setFlushed true).withoutWriter ∧ t.bwCnt = 0#3 ∧ t.bwCur = 0#8 ∧
      t.len .flags = ceilDiv8 s.writerBits.length ∧ ∀ j, t.flagsBit j = s.writerBits.getD j false := by
  have hcnt := s.bwCnt.isLt
  have hbits : ∀ j, s.writerBits.getD j false =
      if j < 8 * s.len .flags then s.flagsBit j
      else if j < 8 * s.len .flags + s.bwCnt.toNat then s.bwCur.getLsbD (7 - (j - 8 * s.len .flags)) else false := by
    intro j
    rw [State.writerBits, List.getD_eq_getElem?_getD, List.getElem?_append]
    simp only [List.length_map, List.length_range, List.getElem?_map]
    split
    · simp [*]
    · split
      · rw [List.getElem?_range (by omega)]
        rfl
      · rw [List.getElem?_eq_none (by simp; omega)]
        rfl
  by_cases hz : s.bwCnt = 0#3
  · have hz' : s.bwCnt.toNat = 0 := by rw [hz]; rfl
    refine ⟨s.setFlushed true, by rw [bwFlush, if_pos hz], rfl, hz, ?_, ?_, fun j => ?_⟩
    · ext i hi
      have := hw i (by omega)
      simpa [BitVec.getLsbD_eq_getElem hi] using this
    · rw [State.writerBits_length, ceilDiv8, State.setFlushed_len]
      omega
    · rw [hbits, State.flagsBit, State.setFlushed_len, State.setFlushed_byte]
      by_cases hj : j < 8 * s.len .flags
      · simp [hj, State.flagsBit]
      · simp [hj, hz']
  · have hlt := hroom hz
    have hz' : s.bwCnt.toNat ≠ 0 := fun h => hz (BitVec.eq_of_toNat_eq h)
    have hlen := (append_spec hc (append_ok s.bwCur hlt)).2.1
    refine ⟨_, bwFlush_partial hz hlt, ?_, rfl, rfl, ?_, fun j => ?_⟩
    · have := append_flags_withoutWriter (append_ok s.bwCur hlt)
      exact congrArg (State.setFlushed true) this
    · rw [State.writerBits_length, ceilDiv8]
      simp only [State.setFlushed_len, State.setWriter_len]
      exact hlen.trans (by omega)
    · have hflag := flagsBit_append hc s.bwCur hlt j
      rw [hbits]
      refine Eq.trans ?_ (hflag.trans ?_)
      · simp [State.flagsBit]
      · by_cases h1 : j < 8 * s.len .flags
        · rw [if_pos h1, if_pos h1]
        · rw [if_neg h1, if_neg h1]
          by_cases h2 : j < 8 * s.len .flags + s.bwCnt.toNat
          · rw [if_pos (by omega), if_pos h2]
            congr 1
            omega
          · rw [if_neg h2]
            by_cases h3 : j < 8 * s.len .flags + 8
            · rw [if_pos h3, hw _ (by omega)]
            · rw [if_neg h3]

/-! ### Pieces -/

/-- A token of the stream with what the decoder adds to it: a literal carries its byte. -/
inductive Piece where
  | lit (b : Byte)
  | mtch (dist : Half) (len : Byte)

/-- The flag bit of a piece (30_encoding R90). -/
def Piece.flag : Piece → Bool
  | .lit _ => false
  | .mtch _ _ => true

/-- The literal of a piece, if it is one. -/
def Piece.lits : Piece → List Byte
  | .lit b => [b]
  | .mtch _ _ => []

/-- The match record of a piece, if it is a match (30_encoding R92). -/
def Piece.record : Piece → List Byte
  | .lit _ => []
  | .mtch dist len => bytesLe16 dist ++ [len]

/-- How many bytes of the output a piece stands for. -/
def Piece.width : Piece → Nat
  | .lit _ => 1
  | .mtch _ len => len.toNat

/-- A piece stands for the bytes of `f` from `p` on, its source entirely before `p` (43_lz77 R196). -/
def Piece.At (f : Nat → Byte) (p : Nat) : Piece → Prop
  | .lit b => b = f p
  | .mtch dist len => 1 ≤ dist.toNat ∧ dist.toNat ≤ p ∧ minMatch ≤ len.toNat ∧ len.toNat ≤ dist.toNat ∧
      ∀ k, k < len.toNat → f (p - dist.toNat + k) = f (p + k)

/-- Pieces that cover `f` from `p` up to `q`. -/
def Covers (f : Nat → Byte) : Nat → List Piece → Nat → Prop
  | p, [], q => p = q
  | p, pc :: ps, q => pc.At f p ∧ Covers f (p + pc.width) ps q

def litsOf (ps : List Piece) : List Byte := ps.flatMap Piece.lits
def recordsOf (ps : List Piece) : List Byte := ps.flatMap Piece.record

theorem Covers.append {f : Nat → Byte} {p q r : Nat} {ps qs : List Piece} (h : Covers f p ps q) (h' : Covers f q qs r) :
    Covers f p (ps ++ qs) r := by
  induction ps generalizing p with
  | nil => obtain rfl : p = q := h; exact h'
  | cons pc ps ih => exact ⟨h.1, ih h.2⟩

theorem Piece.At.width_pos {f : Nat → Byte} {p : Nat} {pc : Piece} (h : pc.At f p) : 1 ≤ pc.width := by
  cases pc with
  | lit b => exact le_rfl
  | mtch dist len =>
    have : 3 ≤ len.toNat := h.2.2.1
    change 1 ≤ len.toNat
    omega

theorem Piece.At.lengths {f : Nat → Byte} {p : Nat} {pc : Piece} (h : pc.At f p) :
    pc.lits.length + pc.record.length ≤ pc.width := by
  cases pc with
  | lit b => exact le_rfl
  | mtch dist len => exact h.2.2.1

/-- Each piece takes at least as many bytes of the input as it makes bytes of `LIT` and `MATCH`, and at least one. -/
theorem Covers.lengths {f : Nat → Byte} {p q : Nat} {ps : List Piece} (h : Covers f p ps q) :
    p + (litsOf ps).length + (recordsOf ps).length ≤ q ∧ p + ps.length ≤ q := by
  induction ps generalizing p with
  | nil => obtain rfl : p = q := h; exact ⟨le_rfl, le_rfl⟩
  | cons pc ps ih =>
    obtain ⟨h1, h2⟩ := ih h.2
    have hw := h.1.width_pos
    have hl := h.1.lengths
    simp only [litsOf, recordsOf, List.flatMap_cons, List.length_append, List.length_cons] at h1 h2 ⊢
    omega

/-- Every literal of a cover is a byte of what is covered. -/
theorem Covers.lit_mem {f : Nat → Byte} {p q : Nat} {ps : List Piece} (h : Covers f p ps q) {b : Byte}
    (hb : b ∈ litsOf ps) : ∃ i, i < q ∧ f i = b := by
  induction ps generalizing p with
  | nil => simp [litsOf] at hb
  | cons pc ps ih =>
    rw [litsOf, List.flatMap_cons, List.mem_append] at hb
    rcases hb with hb | hb
    · cases pc with
      | lit x =>
        obtain rfl : b = x := by simpa [Piece.lits] using hb
        have hle := h.2.lengths.2
        exact ⟨p, by simp only [Piece.width] at hle; omega, h.1.symm⟩
      | mtch dist len => simp [Piece.lits] at hb
    · exact ih h.2 hb

/-- One flag bit for each literal and each match, three bytes for each match (43_lz77 R193). -/
theorem recordsOf_length (ps : List Piece) :
    ∃ m, (recordsOf ps).length = 3 * m ∧ ps.length = (litsOf ps).length + m := by
  induction ps with
  | nil => exact ⟨0, rfl, rfl⟩
  | cons pc ps ih =>
    obtain ⟨m, h1, h2⟩ := ih
    have hl : (litsOf (pc :: ps)).length = pc.lits.length + (litsOf ps).length := by simp [litsOf]
    have hr : (recordsOf (pc :: ps)).length = pc.record.length + (recordsOf ps).length := by simp [recordsOf]
    rw [hl, hr, List.length_cons]
    cases pc with
    | lit b =>
      refine ⟨m, ?_, ?_⟩
      · simpa [Piece.record] using h1
      · simp only [Piece.lits, List.length_singleton]
        omega
    | mtch dist len =>
      refine ⟨m + 1, ?_, ?_⟩
      · simp only [Piece.record, List.length_append, bytesLe16_length, List.length_singleton]
        omega
      · simp only [Piece.lits, List.length_nil]
        omega

/-! ### The parser -/

/-- The state but for what the parser writes: the BitWriter's part, `LIT`, `MATCH` and `LZ.p`. -/
def State.withoutParser (s : State) : State :=
  ((s.withoutWriter.setBuf .lit (Buf.fresh 0)).setBuf .mtch (Buf.fresh 0)).setLzP 0#32

/-- From `s` to `t` the parser has put out the pieces `ps`. -/
structure Parsed (s t : State) (ps : List Piece) : Prop where
  frame : t.withoutParser = s.withoutParser
  inv : t.WriterInv
  bits : t.writerBits = s.writerBits ++ ps.map Piece.flag
  lits : t.contents .lit = s.contents .lit ++ litsOf ps
  records : t.contents .mtch = s.contents .mtch ++ recordsOf ps
  covers : Covers (s.byte .inp) s.lzP.toNat ps t.lzP.toNat

theorem buf_of_withoutParser {s t : State} (h : t.withoutParser = s.withoutParser) {sp : Space}
    (hsp : sp ≠ .lit ∧ sp ≠ .mtch ∧ sp ≠ .flags) : t.buf sp = s.buf sp := by
  obtain ⟨h1, h2, h3⟩ := hsp
  have := congrArg (fun u => u.buf sp) h
  simpa [State.withoutParser, State.withoutWriter, h1, h2, h3] using this

theorem bwOpen_of_withoutParser {s t : State} (h : t.withoutParser = s.withoutParser) (c : Config) :
    bwOpen c t = bwOpen c s := by
  have : t.bwFlushed = s.bwFlushed := by
    simpa [State.withoutParser, State.withoutWriter] using congrArg State.bwFlushed h
  rw [bwOpen, bwOpen, this]

theorem isValid_of_withoutParser {s t : State} (h : t.withoutParser = s.withoutParser) (u : ValidBit) :
    t.isValid u = s.isValid u := by
  have : t.valid = s.valid := by
    simpa [State.withoutParser, State.withoutWriter] using congrArg State.valid h
  rw [State.isValid, State.isValid, this]

theorem Parsed.trans {s t u : State} {ps qs : List Piece} (h : Parsed s t ps) (h' : Parsed t u qs) :
    Parsed s u (ps ++ qs) where
  frame := h'.frame.trans h.frame
  inv := h'.inv
  bits := by rw [h'.bits, h.bits, List.map_append, List.append_assoc]
  lits := by rw [h'.lits, h.lits, litsOf, litsOf, litsOf, List.flatMap_append, List.append_assoc]
  records := by rw [h'.records, h.records, recordsOf, recordsOf, recordsOf, List.flatMap_append, List.append_assoc]
  covers := by
    have hf : t.byte .inp = s.byte .inp := funext (State.byte_congr (buf_of_withoutParser h.frame (by decide)))
    exact h.covers.append (hf ▸ h'.covers)

/-- The parser's outputs at the position `p` of an input of `n` bytes have room for what is still to come. -/
structure State.ParserRoom (c : Config) (s : State) : Prop where
  lits : s.len .lit ≤ s.lzP.toNat
  records : s.len .mtch ≤ s.lzP.toNat
  bits : s.writerBits.length + (s.len .inp - s.lzP.toNat) < 8 * capacity c .flags + 8

theorem Parsed.room {c : Config} {s t : State} {ps : List Piece} (h : Parsed s t ps) (hr : s.ParserRoom c)
    (hp : t.lzP.toNat ≤ s.len .inp) : t.ParserRoom c := by
  obtain ⟨h1, h2⟩ := h.covers.lengths
  have hlits := congrArg List.length h.lits
  have hrecords := congrArg List.length h.records
  have hbits := congrArg List.length h.bits
  have hinp := State.len_congr (buf_of_withoutParser h.frame (sp := .inp) (by decide))
  simp only [List.length_append, List.length_map, State.contents_length] at hlits hrecords hbits
  obtain ⟨r1, r2, r3⟩ := hr
  exact ⟨by omega, by omega, by omega⟩

/-- The second half of a step: the flag bit is written and the position advances. -/
theorem flag_and_advance {c : Config} (hc : c.Bounded) {u : State} (b : Bool) (n : Word) (ho : bwOpen c u = true)
    (hw : u.WriterInv) (hroom : u.bwCnt = 7#3 → u.len .flags < capacity c .flags) :
    ∃ t, ((bwWbit c b u).bind fun _ v => .ok () (v.setLzP (v.lzP + n))) = .ok () t ∧ t.withoutParser = u.withoutParser ∧
      t.WriterInv ∧ t.writerBits = u.writerBits ++ [b] ∧ t.lit = u.lit ∧ t.mtch = u.mtch ∧ t.lzP = u.lzP + n := by
  obtain ⟨v, hv, hframe⟩ := bwWbit_ok (b := b) ho hroom
  obtain ⟨hinv, hbits⟩ := bwWbit_writerBits hc hw hv
  have hlzP : v.lzP = u.lzP := by simpa [State.withoutWriter] using congrArg State.lzP hframe
  have hlit : v.lit = u.lit := buf_of_withoutWriter hframe (sp := .lit) (by decide)
  have hmtch : v.mtch = u.mtch := buf_of_withoutWriter hframe (sp := .mtch) (by decide)
  have hwhole : v.withoutParser = u.withoutParser := by
    rw [State.withoutParser, State.withoutParser, hframe]
  exact ⟨v.setLzP (v.lzP + n), by rw [hv]; rfl, hwhole, hinv, hbits, hlit, hmtch, by rw [← hlzP]; rfl⟩

/-- A token's bytes go to `LIT` or to `MATCH`, which the BitWriter does not see. -/
theorem setBuf_token_writer {sp : Space} (hsp : sp = .lit ∨ sp = .mtch) (b : Buf) (s : State) :
    (s.setBuf sp b).withoutParser = s.withoutParser ∧ (s.setBuf sp b).writerBits = s.writerBits := by
  rcases hsp with rfl | rfl <;> exact ⟨rfl, rfl⟩

/-- A literal step (43_lz77 R192). -/
theorem lzEmit_lit {c : Config} (hc : c.Bounded) {s : State} {best : Nat × Nat} (hb : best.1 < minMatch)
    (hp : s.lzP.toNat < s.len .inp) (hn : s.len .inp ≤ c.nMax) (ho : bwOpen c s = true) (hw : s.WriterInv)
    (hr : s.ParserRoom c) :
    ∃ t, lzEmit c s.lzP.toNat best s = .ok () t ∧ Parsed s t [.lit (s.byte .inp s.lzP.toNat)] ∧ t.lzP.toNat ≤ s.len .inp := by
  obtain ⟨r1, -, r3⟩ := hr
  rw [State.writerBits_length] at r3
  obtain ⟨u, hu⟩ := appendList_ok hc (sp := .lit) (bs := [s.byte .inp s.lzP.toNat]) (s := s)
    (by simp only [capacity, List.length_singleton]; omega)
  have hcontents := appendList_contents hc hu
  have hframe := (appendList_spec hc hu).1
  generalize u.buf .lit = b at hframe
  subst hframe
  obtain ⟨t, ht, hwhole, hinv, hbits, hlit, hmtch, hlzP⟩ := flag_and_advance hc (u := s.setBuf .lit b) false 1#32 ho hw
    fun h7 => by
      have h7' : s.bwCnt.toNat = 7 := congrArg BitVec.toNat h7
      change s.len .flags < _
      omega
  have hpos : t.lzP.toNat = s.lzP.toNat + 1 := by
    have := hc.2
    rw [hlzP, State.setBuf_lzP, BitVec.toNat_add]
    simp
    omega
  obtain ⟨hwithout, hwriter⟩ := setBuf_token_writer (.inl rfl) b s
  refine ⟨t, ?_, ⟨hwhole.trans hwithout, hinv, hwriter ▸ hbits, ?_, ?_, ⟨rfl, hpos.symm⟩⟩, by omega⟩
  · rw [lzEmit, if_neg (by omega), append_eq_appendList, hu, Res.bind_ok, ht]
  · exact (State.contents_congr (sp := .lit) hlit).trans hcontents
  · rw [recordsOf, List.flatMap_singleton, Piece.record, List.append_nil]
    exact State.contents_congr (sp := .mtch) hmtch

/-- A match step (43_lz77 R192, R196). -/
theorem lzEmit_match {c : Config} (hc : c.Bounded) {s : State} {best : Nat × Nat} (hb : minMatch ≤ best.1)
    (hcand : s.Candidate best.2 best.1) (hn : s.len .inp ≤ c.nMax) (ho : bwOpen c s = true) (hw : s.WriterInv)
    (hr : s.ParserRoom c) :
    ∃ t, lzEmit c s.lzP.toNat best s = .ok () t ∧
      Parsed s t [.mtch (BitVec.ofNat 16 (s.lzP.toNat - best.2)) (BitVec.ofNat 8 best.1)] ∧ t.lzP.toNat ≤ s.len .inp := by
  obtain ⟨d1, d2, d3, d4, d5⟩ := hcand.bounds
  obtain ⟨-, hi, -, -, heq⟩ := hcand
  obtain ⟨-, r2, r3⟩ := hr
  rw [State.writerBits_length] at r3
  have h3 : 3 ≤ best.1 := hb
  have hwin : window = 32768 := rfl
  have hmax : maxMatch = 255 := rfl
  obtain ⟨u, hu⟩ := appendList_ok hc (sp := .mtch)
    (bs := bytesLe16 (BitVec.ofNat 16 (s.lzP.toNat - best.2)) ++ [BitVec.ofNat 8 best.1]) (s := s)
    (by simp only [capacity, List.length_append, bytesLe16_length, List.length_singleton]; omega)
  have hcontents := appendList_contents hc hu
  have hframe := (appendList_spec hc hu).1
  generalize u.buf .mtch = b at hframe
  subst hframe
  obtain ⟨t, ht, hwhole, hinv, hbits, hlit, hmtch, hlzP⟩ := flag_and_advance hc (u := s.setBuf .mtch b) true
    (BitVec.ofNat 32 best.1) ho hw fun h7 => by
      have h7' : s.bwCnt.toNat = 7 := congrArg BitVec.toNat h7
      change s.len .flags < _
      omega
  have hpos : t.lzP.toNat = s.lzP.toNat + best.1 := by
    have := hc.2
    rw [hlzP, State.setBuf_lzP, BitVec.toNat_add, BitVec.toNat_ofNat]
    omega
  have hlen : (BitVec.ofNat 8 best.1).toNat = best.1 := by
    rw [BitVec.toNat_ofNat]
    omega
  have hdist : (BitVec.ofNat 16 (s.lzP.toNat - best.2)).toNat = s.lzP.toNat - best.2 := by
    rw [BitVec.toNat_ofNat]
    omega
  have hat : (Piece.mtch (BitVec.ofNat 16 (s.lzP.toNat - best.2)) (BitVec.ofNat 8 best.1)).At (s.byte .inp) s.lzP.toNat := by
    rw [Piece.At, hlen, hdist]
    refine ⟨d1, by omega, hb, d3, fun k hk => ?_⟩
    rw [show s.lzP.toNat - (s.lzP.toNat - best.2) = best.2 by omega]
    exact heq k hk
  obtain ⟨hwithout, hwriter⟩ := setBuf_token_writer (.inr rfl) b s
  refine ⟨t, ?_, ⟨hwhole.trans hwithout, hinv, hwriter ▸ hbits, ?_, ?_, ⟨hat, ?_⟩⟩, by omega⟩
  · rw [lzEmit, if_pos hb, hu, Res.bind_ok, ht]
  · rw [litsOf, List.flatMap_singleton, Piece.lits, List.append_nil]
    exact State.contents_congr (sp := .lit) hlit
  · rw [recordsOf, List.flatMap_singleton, Piece.record]
    exact (State.contents_congr (sp := .mtch) hmtch).trans hcontents
  · rw [Piece.width, hlen]
    exact hpos.symm

/-- One step of an initialised parser with room puts out one piece. -/
theorem lzStep_parsed {c : Config} (hc : c.Bounded) {s : State} (hlz : s.isValid .lz = true)
    (hp : s.lzP.toNat < s.len .inp) (hn : s.len .inp ≤ c.nMax) (ho : bwOpen c s = true) (hw : s.WriterInv)
    (hr : s.ParserRoom c) :
    ∃ t pc, lzStep c s = .ok () t ∧ Parsed s t [pc] ∧ t.lzP.toNat ≤ s.len .inp := by
  have hsearch := (searchAt_spec s).2
  rw [lzStep_eq, checked_pass (by simp [hlz, hp]) (by simpa [capacity] using hn)]
  generalize searchAt (s.byte .inp) (s.len .inp) s.lzP.toNat = best at hsearch ⊢
  by_cases hb : minMatch ≤ best.1
  · obtain ⟨t, h⟩ := lzEmit_match hc hb (hsearch (le_trans (by decide) hb) hp.le).1 hn ho hw hr
    exact ⟨t, _, h⟩
  · obtain ⟨t, h⟩ := lzEmit_lit hc (Nat.lt_of_not_le hb) hp hn ho hw hr
    exact ⟨t, _, h⟩

/-- The loop parses the rest of the input. -/
theorem lzLoop_parsed {c : Config} (hc : c.Bounded) {fuel : Nat} {s : State} (hlz : s.isValid .lz = true)
    (hp : s.lzP.toNat ≤ s.len .inp) (hfuel : s.len .inp ≤ s.lzP.toNat + fuel) (hn : s.len .inp ≤ c.nMax)
    (ho : bwOpen c s = true) (hw : s.WriterInv) (hr : s.ParserRoom c) :
    ∃ t ps, lzLoop c fuel s = .ok () t ∧ Parsed s t ps ∧ t.lzP.toNat = s.len .inp := by
  have hnil : Parsed s s [] := ⟨rfl, hw, by simp, by simp [litsOf], by simp [recordsOf], rfl⟩
  induction fuel generalizing s with
  | zero => exact ⟨s, [], rfl, hnil, by omega⟩
  | succ fuel ih =>
    rw [lzLoop]
    by_cases hlt : s.lzP.toNat < s.len .inp
    · obtain ⟨u, pc, hu, hpc, hule⟩ := lzStep_parsed hc hlz hlt hn ho hw hr
      have hlen : u.len .inp = s.len .inp := State.len_congr (buf_of_withoutParser hpc.frame (by decide))
      have hwidth := hpc.covers.lengths.2
      simp only [List.length_singleton] at hwidth
      obtain ⟨t, ps, ht, hps, hend⟩ := ih (s := u) (by rw [isValid_of_withoutParser hpc.frame, hlz]) (by omega) (by omega)
        (by omega) (by rw [bwOpen_of_withoutParser hpc.frame, ho]) hpc.inv (hpc.room hr hule)
        ⟨rfl, hpc.inv, by simp, by simp [litsOf], by simp [recordsOf], rfl⟩
      exact ⟨t, [pc] ++ ps, by rw [if_pos hlt, hu, Res.bind_ok, ht], hpc.trans hps, by omega⟩
    · exact ⟨s, [], by rw [if_neg hlt], hnil, by omega⟩

theorem lzInit_lens (s : State) :
    (lzInit s).len .inp = s.len .inp ∧ (lzInit s).len .lit = 0 ∧ (lzInit s).len .mtch = 0 := by
  simp [lzInit]

theorem lzInit_writerBits (s : State) : (lzInit s).writerBits = s.writerBits := by
  have hf : ∀ j, (lzInit s).flagsBit j = s.flagsBit j := fun j => by simp [lzInit, State.flagsBit]
  rw [State.writerBits, State.writerBits, List.map_congr_left fun j _ => hf j]
  simp [lzInit]

/-- `LZ.PARSE` of an input that fits, with an open writer that has room for a flag bit a byte (43_lz77 R197). -/
theorem lzParse_parsed {c : Config} (hc : c.Bounded) {s : State} (hn : s.len .inp ≤ c.nMax) (ho : bwOpen c s = true)
    (hw : s.WriterInv) (hroom : s.writerBits.length + s.len .inp < 8 * capacity c .flags + 8) :
    ∃ t ps, lzParse c s = .ok () t ∧ Parsed (lzInit s) t ps ∧ t.lzP.toNat = s.len .inp := by
  obtain ⟨hinp, hlit, hmtch⟩ := lzInit_lens s
  have hpos : (lzInit s).lzP.toNat = 0 := by simp [lzInit]
  obtain ⟨t, ps, ht, hps, hend⟩ := lzLoop_parsed hc (fuel := s.len .inp) (s := lzInit s)
    (by simp [lzInit, State.setValid_isValid]) (by omega) (by omega) (by omega) (by simpa [lzInit, bwOpen] using ho)
    (by simpa [lzInit, State.WriterInv] using hw) ⟨by omega, by omega, by rw [lzInit_writerBits]; omega⟩
  exact ⟨t, ps, by rw [lzParse, checked_pass rfl (by simpa [capacity] using hn), ht], hps, hend.trans hinp⟩

end Sys2Proof.Machine


/-! PROOFS. The model `SS.COUNT` builds, stored by `SS.STORE` and loaded again by `SS.LOAD` (spec 41_symbolstats R141 to R150). -/

namespace Sys2Proof.Machine

/-! ### The tables of a list of frequencies -/

/-- A list of 256 frequencies that sum to `PROB_SCALE` (41_symbolstats R147). -/
structure WholeModel (fs : List Nat) : Prop where
  length : fs.length = 256
  sum : fs.sum = probScale

/-- `freqs` and `cum` hold the frequencies listed and their prefix sums. -/
structure State.HasTables (s : State) (fs : List Nat) : Prop where
  freqs : s.freqs = tabulate 256 fun i => BitVec.ofNat 16 (fs.getD i 0)
  cum : s.cum = tabulate 257 fun i => BitVec.ofNat 16 ((prefixSums 0 fs).getD i 0)

theorem putModel_hasTables (fs : List Nat) (s : State) : (s.putModel fs).HasTables fs := ⟨rfl, rfl⟩

theorem WholeModel.take_le {fs : List Nat} (h : WholeModel fs) (i : Nat) : (fs.take i).sum ≤ probScale := by
  have := congrArg List.sum (List.take_append_drop i fs)
  rw [List.sum_append, h.sum] at this
  omega

theorem WholeModel.getD_le {fs : List Nat} (h : WholeModel fs) (i : Nat) : fs.getD i 0 ≤ probScale := by
  rw [List.getD_eq_getElem?_getD]
  by_cases hi : i < fs.length
  · rw [List.getElem?_eq_getElem hi, Option.getD_some, ← h.sum]
    exact List.le_sum_of_mem (List.getElem_mem hi)
  · rw [List.getElem?_eq_none (by omega)]
    exact Nat.zero_le _

theorem toNat_ofNat_of_le_probScale {n : Nat} (h : n ≤ probScale) : (BitVec.ofNat 16 n).toNat = n := by
  have : probScale = 4096 := rfl
  rw [BitVec.toNat_ofNat]
  exact Nat.mod_eq_of_lt (by omega)

section Tables
variable {s : State} {fs : List Nat} (hs : s.HasTables fs) (hf : WholeModel fs)
include hs hf

theorem State.HasTables.freqs_toNat (i : Nat) (hi : i < 256) : (s.freqs[i]?.getD 0#16).toNat = fs.getD i 0 := by
  rw [hs.freqs, tabulate_getElem?, if_pos hi, Option.getD_some, toNat_ofNat_of_le_probScale (hf.getD_le i)]

theorem State.HasTables.freq_eq (sym : Byte) : s.freq sym = fs.getD sym.toNat 0 :=
  hs.freqs_toNat hf sym.toNat sym.isLt

theorem State.HasTables.cumAt_eq (i : Nat) (hi : i ≤ 256) : s.cumAt i = (fs.take i).sum := by
  rw [State.cumAt, hs.cum, tabulate_getElem?, if_pos (by omega), Option.getD_some,
    prefixSums_getD _ _ _ (by rw [hf.length]; exact hi), Nat.zero_add, toNat_ofNat_of_le_probScale (hf.take_le i)]

/-- The tables of a whole model are a model (10_state R27). -/
theorem State.HasTables.modelOk : s.ModelOk := by
  refine ⟨hs.cumAt_eq hf 0 (by omega), fun sym => ?_, ?_⟩
  · have hsym := sym.isLt
    have hlt : sym.toNat < fs.length := by rw [hf.length]; omega
    rw [hs.cumAt_eq hf _ (by omega), hs.cumAt_eq hf _ (by omega), hs.freq_eq hf, List.sum_take_succ _ _ hlt,
      List.getD_eq_getElem _ _ hlt]
  · rw [hs.cumAt_eq hf 256 le_rfl, List.take_of_length_le (by rw [hf.length]), hf.sum]

end Tables

/-! ### `SS.COUNT` -/

theorem tally_le_length (bs : List Byte) (i : Nat) (hi : i < 256) : (tally bs).getD i 0 ≤ bs.length := by
  rw [tally_getD bs i hi]
  exact List.count_le_length

/-- A symbol seen keeps a frequency of at least 1 (41_symbolstats R147). -/
theorem normalise_pos {n : Nat} {raw : List Nat} (hn : 1 ≤ n) (hlen : raw.length = 256)
    (hle : ∀ i, i < 256 → raw.getD i 0 ≤ n) {i : Nat} (hi : i < 256) (hpos : 1 ≤ raw.getD i 0) :
    1 ≤ (normalise n raw).getD i 0 := by
  have hl : (raw.map (scaleFreq n)).length = 256 := by simpa using hlen
  have hscaled : 1 ≤ (raw.map (scaleFreq n)).getD i 0 := by
    rw [List.getD_eq_getElem _ _ (by omega), List.getElem_map]
    have hlt : i < raw.length := by omega
    have := hle i hi
    rw [List.getD_eq_getElem _ _ hlt] at hpos this
    exact (scaleFreq_bounds this).2.1 hpos
  unfold normalise
  rw [if_neg (by omega)]
  by_cases ht : (raw.map (scaleFreq n)).sum < probScale
  · simp only [if_pos ht]
    obtain ⟨-, -, h3⟩ := addDeficit_spec (probScale - (raw.map (scaleFreq n)).sum) (raw.map (scaleFreq n)) (by omega)
    rw [h3 i (by omega)]
    omega
  · simp only [if_neg ht]
    obtain ⟨k, j, -, -, -, h4⟩ := trimExcess_start (raw.map (scaleFreq n)) hl (by omega)
    rw [h4 i hi, taken]
    split
    · exact hscaled
    · exact le_max_left _ _

theorem ssCount_eq {c : Config} {s : State} (hn : s.len .inp ≤ c.nMax) :
    ssCount c s = .ok ()
      ((s.setRaw (tabulate 256 fun i => BitVec.ofNat 32 ((tally (s.bytes .inp 0 (s.len .inp))).getD i 0))).putModel
        (normalise (s.len .inp) (tally (s.bytes .inp 0 (s.len .inp))))) := by
  rw [ssCount, checked_pass rfl (by simpa [capacity] using hn)]

/-- `SS.COUNT` of a non-empty input builds a whole model in which every byte of the input has a frequency. -/
theorem ssCount_model {c : Config} {s : State} (h1 : 1 ≤ s.len .inp) (hn : s.len .inp ≤ c.nMax) :
    ∃ r fs, ssCount c s = .ok () ((s.setRaw r).putModel fs) ∧ WholeModel fs ∧
      ∀ i, i < s.len .inp → 1 ≤ fs.getD (s.byte .inp i).toNat 0 := by
  obtain ⟨hlen, hsum⟩ := normalise_sum (s.len .inp) (tally (s.bytes .inp 0 (s.len .inp))) h1 (tally_length _)
  refine ⟨_, _, ssCount_eq hn, ⟨hlen, hsum⟩, fun i hi => ?_⟩
  refine normalise_pos h1 (tally_length _) (fun j hj => ?_) (s.byte .inp i).isLt ?_
  · simpa using tally_le_length (s.bytes .inp 0 (s.len .inp)) j hj
  · rw [tally_getD _ _ (s.byte .inp i).isLt, BitVec.ofNat_toNat, BitVec.setWidth_eq]
    refine List.one_le_count_iff.mpr (List.mem_map.mpr ⟨i, List.mem_range.mpr hi, ?_⟩)
    rw [Nat.zero_add]

/-! ### `SS.STORE` and `SS.LOAD` -/

theorem flatten_pairs_getElem? {α β : Type} (a b : α → β) (l : List α) (k : Nat) :
    (l.map fun x => [a x, b x]).flatten[2 * k]? = l[k]?.map a ∧
      (l.map fun x => [a x, b x]).flatten[2 * k + 1]? = l[k]?.map b := by
  induction l generalizing k with
  | nil => simp
  | cons x l ih =>
    cases k with
    | zero => simp
    | succ k =>
      obtain ⟨h1, h2⟩ := ih k
      rw [show 2 * (k + 1) = 2 * k + 1 + 1 by omega]
      simpa using ⟨h1, h2⟩

theorem flatten_pairs_length {α β : Type} (a b : α → β) (l : List α) :
    (l.map fun x => [a x, b x]).flatten.length = 2 * l.length := by
  induction l with
  | nil => rfl
  | cons x l ih => simp only [List.map_cons, List.flatten_cons, List.length_append, ih, List.length_cons, List.length_nil]; omega

theorem modelBytes_length (s : State) : (modelBytes s).length = 512 := by
  have := flatten_pairs_length (fun i => (s.freqs[i]?.getD 0#16).extractLsb' 0 8)
    (fun i => (s.freqs[i]?.getD 0#16).extractLsb' 8 8) (List.range nsym)
  rwa [List.length_range] at this

/-- Frequency `i` stands at `2i` and `2i + 1`, low byte first (41_symbolstats R148). -/
theorem modelBytes_getElem? (s : State) (i : Nat) (hi : i < 256) :
    (modelBytes s)[2 * i]? = some ((s.freqs[i]?.getD 0#16).extractLsb' 0 8) ∧
      (modelBytes s)[2 * i + 1]? = some ((s.freqs[i]?.getD 0#16).extractLsb' 8 8) := by
  obtain ⟨h1, h2⟩ := flatten_pairs_getElem? (fun i => (s.freqs[i]?.getD 0#16).extractLsb' 0 8)
    (fun i => (s.freqs[i]?.getD 0#16).extractLsb' 8 8) (List.range nsym) i
  rw [List.getElem?_range hi] at h1 h2
  exact ⟨h1, h2⟩

/-- At `o` the buffer `sp` of `t` holds the model region of `s`. -/
def HasModelRegion (s t : State) (sp : Space) (o : Nat) : Prop :=
  ∀ k, k < 512 → (modelBytes s)[k]? = some (t.byte sp (o + k))

/-- A frequency read back from a model region. -/
theorem HasModelRegion.field16 {s t : State} {sp : Space} {o : Nat} (h : HasModelRegion s t sp o) (i : Nat) (hi : i < 256) :
    t.field16 sp (o + 2 * i) = s.freqs[i]?.getD 0#16 := by
  obtain ⟨h1, h2⟩ := modelBytes_getElem? s i hi
  rw [h _ (by omega), Option.some.injEq] at h1 h2
  rw [State.field16, h1, Nat.add_assoc, h2, le16_bytesLe16]

theorem HasModelRegion.regionFreq {s t : State} {sp : Space} {o : Nat} (h : HasModelRegion s t sp o) (sym : Byte) :
    t.regionFreq sp o sym = s.freq sym := by
  have := congrArg BitVec.toNat (h.field16 sym.toNat sym.isLt)
  rwa [State.field16_toNat] at this

/-- `SS.LOAD` of the region of a whole model puts its tables (41_symbolstats R150). -/
theorem ssLoad_putModel {c : Config} {s t : State} {fs : List Nat} (hs : s.HasTables fs) (hf : WholeModel fs)
    (hlen : t.len .model = 512) (hr : HasModelRegion s t .model 0) : ssLoad c t = .ok () (t.putModel fs) := by
  have hfreqs : regionFreqs t = fs := by
    refine List.ext_getElem (by simp [regionFreqs, hf.length]) fun i h1 h2 => ?_
    have hi : i < 256 := by rw [← hf.length]; exact h2
    have := hr.field16 i hi
    rw [Nat.zero_add] at this
    simp only [regionFreqs, List.getElem_map, List.getElem_range]
    rw [this, hs.freqs_toNat hf i hi, List.getD_eq_getElem _ _ h2]
  rw [ssLoad, checked_pass (by simp [hlen]) (by simp [hlen, capacity]), hfreqs, if_pos hf.sum]

end Sys2Proof.Machine


/-! PROOFS. `COMPRESS` of a non-empty input, stage by stage (spec 45_orchestration R234, 44_container R212). -/

namespace Sys2Proof.Machine

/-! ### Packing -/

/-- The state `CT.PACK` leaves (44_container R212). -/
def packed (s : State) : State := ((s.setHdr (packHeader s)).load .art (packBytes s)).setValid .hdr

theorem ctPack_packed {c : Config} {s : State} (hm : s.len .model = 512) (hcnt : s.bwCnt = 0#3) (hre : s.isValid .re = false)
    (hcap : ∀ sp ∈ [Space.rans, .flags, .mtch, .model], s.len sp ≤ capacity c sp) : ctPack c s = .ok () (packed s) := by
  rw [ctPack, checked_pass (by simp [hm, hcnt, hre]) hcap]
  rfl

theorem packed_buf {sp : Space} (hsp : sp ≠ .art) (s : State) : (packed s).buf sp = s.buf sp := by
  simp [packed, State.load, State.setLen, State.writeBytes, hsp]

theorem packBytes_congr {s t : State} (h : ∀ sp, sp ≠ .art → t.buf sp = s.buf sp) : packBytes t = packBytes s := by
  have hb := fun sp hsp => State.contents_congr (h sp hsp)
  have hl : ∀ sp, sp ≠ .art → (t.buf sp).len = (s.buf sp).len := fun sp hsp => congrArg Buf.len (h sp hsp)
  have hhdr : packHeader t = packHeader s := by
    simp only [packHeader, Header.mk.injEq, true_and]
    exact ⟨hl .inp (by decide), hl .rans (by decide), hl .flags (by decide), hl .mtch (by decide), hl .model (by decide)⟩
  rw [packBytes, packBytes, hhdr, hb .rans (by decide), hb .flags (by decide), hb .mtch (by decide), hb .model (by decide)]

theorem load_contents {sp : Space} {bs : List Byte} {s : State} (h : bs.length < 2 ^ 32) :
    (s.load sp bs).contents sp = bs := by
  have hl : (s.load sp bs).len sp = bs.length := by rw [State.load_len_same, Nat.mod_eq_of_lt h]
  rw [State.contents, hl]
  refine State.bytes_eq_list fun k hk => ?_
  rw [Nat.zero_add, State.load_byte_same, dif_pos hk]

/-- `ART` holds the artifact of the four regions and the header registers its header. -/
structure State.HoldsArtifact (t : State) : Prop where
  art : t.contents .art = packBytes t
  hdr : t.hdr = packHeader t

theorem packed_holdsArtifact {s : State} (h : (packBytes s).length < 2 ^ 32) : (packed s).HoldsArtifact where
  art := by
    rw [packBytes_congr fun sp hsp => packed_buf hsp s]
    exact (State.contents_congr (State.setValid_buf _ _ _)).trans (load_contents h)
  hdr := by
    have hl : ∀ sp, sp ≠ .art → ((packed s).buf sp).len = (s.buf sp).len := fun sp hsp => congrArg Buf.len (packed_buf hsp s)
    have hhdr : (packed s).hdr = packHeader s := by simp [packed]
    rw [hhdr]
    simp only [packHeader, Header.mk.injEq, true_and]
    exact ⟨(hl .inp (by decide)).symm, (hl .rans (by decide)).symm, (hl .flags (by decide)).symm,
      (hl .mtch (by decide)).symm, (hl .model (by decide)).symm⟩

section Artifact
variable {t : State} (h : t.HoldsArtifact)
include h

theorem State.HoldsArtifact.len : t.len .art = 24 + t.len .rans + t.len .flags + t.len .mtch + t.len .model := by
  rw [← packBytes_length, ← h.art, State.contents_length]

theorem State.HoldsArtifact.getElem? {k : Nat} (hk : k < t.len .art) : (packBytes t)[k]? = some (t.byte .art k) := by
  rw [← h.art, List.getElem?_eq_getElem (by simpa using hk), State.contents_getElem]

/-- The regions stand behind the header (20_memory R66). -/
theorem State.HoldsArtifact.regions :
    (∀ k, k < t.len .rans → t.byte .art (24 + k) = t.byte .rans k) ∧
      (∀ k, k < t.len .flags → t.byte .art (24 + t.len .rans + k) = t.byte .flags k) ∧
      (∀ k, k < t.len .mtch → t.byte .art (24 + t.len .rans + t.len .flags + k) = t.byte .mtch k) ∧
      (∀ k, k < t.len .model → t.byte .art (24 + t.len .rans + t.len .flags + t.len .mtch + k) = t.byte .model k) := by
  obtain ⟨-, hr, hf, hm, hd⟩ := packBytes_getElem? t
  have hlen := h.len
  refine ⟨fun k hk => ?_, fun k hk => ?_, fun k hk => ?_, fun k hk => ?_⟩
  · exact Option.some.inj ((h.getElem? (by omega)).symm.trans (hr k hk))
  · exact Option.some.inj ((h.getElem? (by omega)).symm.trans (hf k hk))
  · exact Option.some.inj ((h.getElem? (by omega)).symm.trans (hm k hk))
  · exact Option.some.inj ((h.getElem? (by omega)).symm.trans (hd k hk))

/-- A header field of the artifact. -/
theorem State.HoldsArtifact.field32 {i : Nat} {w : Word} (hi : i + 4 ≤ 24)
    (hw : ∀ k, k < 4 → (headerBytes (packHeader t))[i + k]? = (bytesLe32 w)[k]?) : t.field32 .art i = w := by
  have hlen := h.len
  have hb : ∀ k, k < 4 → some (t.byte .art (i + k)) = (bytesLe32 w)[k]? := fun k hk => by
    rw [← h.getElem? (by omega), (packBytes_getElem? t).1 _ (by omega), hw k hk]
  have h0 : t.byte .art i = _ := Option.some.inj (hb 0 (by omega))
  have h1 := Option.some.inj (hb 1 (by omega))
  have h2 := Option.some.inj (hb 2 (by omega))
  have h3 := Option.some.inj (hb 3 (by omega))
  rw [State.field32, h0, h1, h2, h3]
  exact le32_bytesLe32 w

/-- The header in `ART` is the one `CT.PACK` computed (44_container R217). -/
theorem State.HoldsArtifact.artHeader : artHeader t = packHeader t := by
  have hf : ∀ (i : Nat) (w : Word), i + 4 ≤ 24 →
      (∀ k, k < 4 → (headerBytes (packHeader t))[i + k]? = (bytesLe32 w)[k]?) → t.field32 .art i = w := fun i w => h.field32
  rw [Machine.artHeader, hf 0 (packHeader t).magic (by omega) (by intro k hk; interval_cases k <;> rfl),
    hf 4 (packHeader t).origSize (by omega) (by intro k hk; interval_cases k <;> rfl),
    hf 8 (packHeader t).ransSize (by omega) (by intro k hk; interval_cases k <;> rfl),
    hf 12 (packHeader t).flagsSize (by omega) (by intro k hk; interval_cases k <;> rfl),
    hf 16 (packHeader t).matchSize (by omega) (by intro k hk; interval_cases k <;> rfl),
    hf 20 (packHeader t).modelSize (by omega) (by intro k hk; interval_cases k <;> rfl)]

end Artifact

/-! ### The stages -/

/-- What the stages behind `SS.COUNT` leave alone: the input, the model's tables and the decoder's side. -/
def State.beside (s : State) : Buf × Buf × Word × Word × Vector Half 256 × Vector Half 257 :=
  (s.buf .inp, s.buf .out, s.brPos, s.decMpos, s.freqs, s.cum)

theorem beside_of_withoutParser {s t : State} (h : t.withoutParser = s.withoutParser) : t.beside = s.beside := by
  have hw : ∀ u : State, u.withoutParser.beside = u.beside := fun u => by
    simp [State.withoutParser, State.withoutWriter, State.beside]
  rw [← hw t, h, hw]

theorem beside_of_withoutEncoder {s t : State} (h : t.withoutEncoder = s.withoutEncoder) : t.beside = s.beside := by
  have hw : ∀ u : State, u.withoutEncoder.beside = u.beside := fun u => by
    simp [State.withoutEncoder, State.beside]
  rw [← hw t, h, hw]

theorem valid_of_withoutParser {s t : State} (h : t.withoutParser = s.withoutParser) : t.valid = s.valid := by
  simpa [State.withoutParser, State.withoutWriter] using congrArg State.valid h

theorem setFlushed_withoutParser (b : Bool) (s : State) : (s.setFlushed b).withoutParser = s.withoutParser.setFlushed b := rfl

theorem setValid_withoutEncoder (v : ValidBit) (s : State) : (s.setValid v).withoutEncoder = s.withoutEncoder.setValid v := rfl

theorem clearValid_withoutEncoder (v : ValidBit) (s : State) :
    (s.clearValid v).withoutEncoder = s.withoutEncoder.clearValid v := rfl

theorem setBuf_withoutEncoder (b : Buf) (s : State) : (s.setBuf .rans b).withoutEncoder = s.withoutEncoder := rfl

theorem reInit_withoutEncoder (c : Config) (s : State) : (reInit c s).withoutEncoder = s.withoutEncoder.setValid .re := rfl

/-- The outputs of the parser and of the flush behind it: pieces that cover the input `f` of `n` bytes. -/
structure State.HoldsPieces (s : State) (f : Nat → Byte) (n : Nat) (ps : List Piece) : Prop where
  covers : Covers f 0 ps n
  lits : s.contents .lit = litsOf ps
  records : s.contents .mtch = recordsOf ps
  flagsLen : s.len .flags = ceilDiv8 ps.length
  flags : ∀ j, s.flagsBit j = (ps.map Piece.flag).getD j false

theorem State.HoldsPieces.congr {s t : State} {f : Nat → Byte} {n : Nat} {ps : List Piece} (h : s.HoldsPieces f n ps)
    (hb : ∀ sp ∈ [Space.lit, .mtch, .flags], t.buf sp = s.buf sp) : t.HoldsPieces f n ps where
  covers := h.covers
  lits := (State.contents_congr (hb _ (by simp))).trans h.lits
  records := (State.contents_congr (hb _ (by simp))).trans h.records
  flagsLen := (State.len_congr (hb _ (by simp))).trans h.flagsLen
  flags j := by
    rw [← h.flags j, State.flagsBit, State.flagsBit, State.len_congr (hb .flags (by simp)),
      State.byte_congr (hb .flags (by simp))]

/-- The parser and the flush over a fresh writer (45_orchestration R234). -/
theorem parse_and_flush {c : Config} (hc : c.Bounded) {s : State} (hn : s.len .inp ≤ c.nMax) :
    ∃ t u ps, lzParse c (bwInit s) = .ok () t ∧ bwFlush c t = .ok () u ∧
      u.HoldsPieces (s.byte .inp) (s.len .inp) ps ∧ u.bwCnt = 0#3 ∧ u.bwCur = 0#8 ∧ u.lzP = s.inp.len ∧
      u.beside = s.beside ∧ u.valid = (s.setValid .lz).valid := by
  have hb : ∀ sp, sp ≠ .flags → (bwInit s).buf sp = s.buf sp := fun sp hsp => by simp [bwInit, State.setLen, hsp]
  have hinp : (bwInit s).len .inp = s.len .inp := State.len_congr (hb _ (by decide))
  have hbits : (bwInit s).writerBits = [] := by
    rw [← List.length_eq_zero_iff, State.writerBits_length]
    simp [bwInit]
  obtain ⟨-, hlit, hmtch⟩ := lzInit_lens (bwInit s)
  have hlit : (lzInit (bwInit s)).contents .lit = [] := by rw [State.contents, hlit]; rfl
  have hmtch : (lzInit (bwInit s)).contents .mtch = [] := by rw [State.contents, hmtch]; rfl
  obtain ⟨t, ps, ht, hps, hend⟩ := lzParse_parsed hc (s := bwInit s) (by omega) (by simp [bwOpen, bwInit])
    (fun j _ => by simp [bwInit]) (by
      rw [hbits, hinp]
      simp only [List.length_nil, capacity, ceilDiv8]
      omega)
  have htbits : t.writerBits = ps.map Piece.flag := by
    rw [hps.bits, lzInit_writerBits, hbits, List.nil_append]
  have hf : (lzInit (bwInit s)).byte .inp = s.byte .inp := by
    funext a
    simp [lzInit, bwInit]
  have hcov : Covers (s.byte .inp) 0 ps (s.len .inp) := by
    have := hps.covers
    rwa [hf, hend, hinp, show (lzInit (bwInit s)).lzP.toNat = 0 by simp [lzInit]] at this
  have hpslen := hcov.lengths.2
  obtain ⟨u, hu, huframe, hucnt, hucur, hulen, huflags⟩ := bwFlush_flags hc hps.inv fun hne => by
    have hne' : t.bwCnt.toNat ≠ 0 := fun h => hne (BitVec.eq_of_toNat_eq h)
    have := congrArg List.length htbits
    rw [State.writerBits_length, List.length_map] at this
    simp only [capacity, ceilDiv8]
    omega
  have hwhole : u.withoutParser = ((lzInit (bwInit s)).setFlushed true).withoutParser := by
    have : u.withoutParser = (t.setFlushed true).withoutParser := by rw [State.withoutParser, State.withoutParser, huframe]
    rw [this, setFlushed_withoutParser, setFlushed_withoutParser, hps.frame]
  have hubuf : ∀ sp, sp ≠ .flags → u.buf sp = t.buf sp := fun sp hsp =>
    (buf_of_withoutWriter huframe hsp).trans (State.setFlushed_buf _ _ _)
  have hlzP : u.lzP = t.lzP := by simpa [State.withoutWriter] using congrArg State.lzP huframe
  refine ⟨t, u, ps, ht, hu, ⟨hcov, ?_, ?_, ?_, fun j => ?_⟩, hucnt, hucur, ?_, ?_, ?_⟩
  · rw [State.contents_congr (hubuf .lit (by decide)), hps.lits, hlit, List.nil_append]
  · rw [State.contents_congr (hubuf .mtch (by decide)), hps.records, hmtch, List.nil_append]
  · rw [hulen, htbits, List.length_map]
  · rw [huflags, htbits]
  · rw [hlzP]
    exact BitVec.eq_of_toNat_eq (hend.trans hinp)
  · rw [beside_of_withoutParser hwhole]
    simp [State.beside, lzInit, bwInit, State.setLen]
  · rw [valid_of_withoutParser hwhole]
    simp [State.setValid, lzInit, bwInit]

/-- `RANS` holds the bytes of the literals `ls`, coded in reverse order, and the encoder's state on top (42_rans R168, R174). -/
structure State.HoldsCode (s : State) (c : Config) (ls : List Byte) (m : Nat) : Prop where
  len : s.len .rans = m + 4
  le : m ≤ 2 * ls.length
  code : (s.field32 .rans m, s.stack m) = encAll c s.freq s.low ls

/-- The encoder over the literals (45_orchestration R234). -/
theorem encode_literals {c : Config} (hc : c.Bounded) (hfit : EncoderFits c) {s : State} (hss : s.isValid .ss = true)
    (hm : s.ModelOk) (hf : ∀ x ∈ s.contents .lit, 1 ≤ s.freq x) (hn : s.len .lit ≤ c.nMax) :
    ∃ t u m, putLiterals c (s.len .lit) (reInit c s) = .ok () t ∧ reFlush c t = .ok () u ∧
      u.HoldsCode c (s.contents .lit) m ∧ u.withoutEncoder = ((s.setValid .re).clearValid .re).withoutEncoder := by
  have hm₀ : (reInit c s).ModelOk := hm
  have hlits : (reInit c s).bytes .lit 0 (s.len .lit) = s.contents .lit := by
    rw [State.contents]
    exact State.bytes_congr (by simp [reInit, State.setLen]) 0 (s.len .lit)
  have hfreq₀ : (reInit c s).freq = s.freq := rfl
  have hnl : (s.contents .lit).length ≤ c.nMax := by simpa using hn
  obtain ⟨t, ht, hput, hframe⟩ := putAll_hasPut hc hfit (reInit_hasPut c hss) hm₀ (syms := (s.contents .lit).reverse)
    (fun x hx => hf x (by simpa using hx)) (by simpa using hnl)
  rw [List.reverse_reverse, List.append_nil] at hput
  have hmt := modelOk_of_withoutEncoder hframe hm₀
  have hfreq : t.freq = s.freq := (freq_of_withoutEncoder hframe).trans hfreq₀
  have hlen := (encAll_bounds hfit (low := t.low) (fun x hx => by rw [hfreq]; exact hf x hx) hmt.freq_le).2
  rw [← hput.encoder] at hlen
  simp only [State.encoder, State.stack_length] at hlen
  obtain ⟨u, hu, hulen, hustack, hufield, huframe⟩ := reFlush_encoder hc hput.re (by simp only [capacity]; omega)
  have hwhole : u.withoutEncoder = (t.clearValid .re).withoutEncoder := by
    rw [huframe, clearValid_withoutEncoder, clearValid_withoutEncoder, setBuf_withoutEncoder]
  have hfreq' : u.freq = t.freq := (freq_of_withoutEncoder hwhole).trans rfl
  have hlow' : u.low = t.low := (low_of_withoutEncoder hwhole).trans rfl
  refine ⟨t, u, t.len .rans, ?_, hu, ⟨hulen, hlen, ?_⟩, ?_⟩
  · rw [putLiterals_eq_putAll, hlits, ht]
  · rw [hufield, hustack, hfreq', hlow', ← hput.encoder]
    rfl
  · rw [hwhole, clearValid_withoutEncoder, hframe, reInit_withoutEncoder, clearValid_withoutEncoder, setValid_withoutEncoder]

/-- What `COMPRESS` of the input of `s` leaves in `t`: the pieces `ps`, the model `fs`, `m` renormalisation bytes, the
artifact of all of them, and the decoder's side as the re-initialisation left it (70_reset R306). -/
structure Compressed (c : Config) (s t : State) (ps : List Piece) (fs : List Nat) (m : Nat) : Prop where
  model : WholeModel fs
  tables : t.HasTables fs
  seen : ∀ i, i < s.len .inp → 1 ≤ fs.getD (s.byte .inp i).toNat 0
  pieces : t.HoldsPieces (s.byte .inp) (s.len .inp) ps
  code : t.HoldsCode c (litsOf ps) m
  modelLen : t.len .model = 512
  region : HasModelRegion t t .model 0
  artifact : t.HoldsArtifact
  inp : t.inp = s.inp
  valid : t.valid = 0x31#8
  lzP : t.lzP = s.inp.len
  bwCnt : t.bwCnt = 0#3
  bwCur : t.bwCur = 0#8
  outLen : t.len .out = 0
  brPos : t.brPos = 0#32
  decMpos : t.decMpos = 0#32

/-- The lengths of the four regions are within their capacities. -/
theorem regions_fit {c : Config} {s : State} {f : Nat → Byte} {n m : Nat} {ps : List Piece} (hp : s.HoldsPieces f n ps)
    (hcode : s.HoldsCode c (litsOf ps) m) (hm : s.len .model = 512) (hn : n ≤ c.nMax) :
    ∀ sp ∈ [Space.rans, .flags, .mtch, .model], s.len sp ≤ capacity c sp := by
  obtain ⟨h1, h2⟩ := hp.covers.lengths
  have hrec := congrArg List.length hp.records
  rw [State.contents_length] at hrec
  have hlen := hcode.len
  have hle := hcode.le
  have hflags := hp.flagsLen
  simp only [List.mem_cons, List.not_mem_nil, or_false, forall_eq_or_imp, forall_eq, capacity, ceilDiv8, modelSize] at hflags ⊢
  omega

end Sys2Proof.Machine


/-! PROOFS. `COMPRESS` completes (spec 45_orchestration R234, R248). -/

namespace Sys2Proof.Machine

theorem State.HasTables.congr {s t : State} {fs : List Nat} (h : s.HasTables fs) (hb : t.beside = s.beside) :
    t.HasTables fs := by
  simp only [State.beside, Prod.mk.injEq] at hb
  obtain ⟨-, -, -, -, hfreqs, hcum⟩ := hb
  exact ⟨hfreqs.trans h.freqs, hcum.trans h.cum⟩

theorem freq_of_beside {s t : State} (hb : t.beside = s.beside) : t.freq = s.freq := by
  simp only [State.beside, Prod.mk.injEq] at hb
  funext sym
  rw [State.freq, State.freq, hb.2.2.2.2.1]

theorem low_of_beside {s t : State} (hb : t.beside = s.beside) : t.low = s.low := by
  simp only [State.beside, Prod.mk.injEq] at hb
  funext sym
  rw [State.low, State.low, State.cumAt, State.cumAt, hb.2.2.2.2.2]

theorem modelBytes_of_beside {s t : State} (hb : t.beside = s.beside) : modelBytes t = modelBytes s := by
  simp only [State.beside, Prod.mk.injEq] at hb
  rw [modelBytes, modelBytes, hb.2.2.2.2.1]

theorem State.HoldsCode.congr {c : Config} {s t : State} {ls : List Byte} {m : Nat} (h : s.HoldsCode c ls m)
    (hr : t.buf .rans = s.buf .rans) (hb : t.beside = s.beside) : t.HoldsCode c ls m where
  len := (State.len_congr hr).trans h.len
  le := h.le
  code := by
    have hbyte := State.byte_congr hr
    rw [freq_of_beside hb, low_of_beside hb, ← h.code, State.stack_congr fun a _ => hbyte a]
    simp only [State.field32, hbyte]

theorem isValid_of_valid {s t : State} (h : t.valid = s.valid) (u : ValidBit) : t.isValid u = s.isValid u := by
  rw [State.isValid, State.isValid, h]

/-! ### Storing the model and packing -/

/-- The state `SS.STORE` leaves. -/
def stored (s : State) : State := s.load .model (modelBytes s)

theorem ssStore_stored {c : Config} {s : State} (hss : s.isValid .ss = true) : ssStore c s = .ok () (stored s) := by
  rw [ssStore, checked_pass hss (by simp)]
  rfl

theorem stored_buf {sp : Space} (hsp : sp ≠ .model) (s : State) : (stored s).buf sp = s.buf sp := by
  simp [stored, State.load, State.setLen, State.writeBytes, hsp]

theorem stored_region (s : State) : (stored s).len .model = 512 ∧ HasModelRegion s (stored s) .model 0 := by
  refine ⟨?_, fun k hk => ?_⟩
  · rw [stored, State.load_len_same, modelBytes_length]
    rfl
  · rw [stored, Nat.zero_add, State.load_byte_same, dif_pos (by rwa [modelBytes_length]), List.getElem?_eq_getElem]

/-- What stored and packed leave alone. -/
theorem packed_stored_beside (s : State) : (packed (stored s)).beside = s.beside := by
  simp [State.beside, packed, stored, State.load, State.setLen, State.writeBytes]

theorem packed_stored_fields (s : State) :
    (packed (stored s)).valid = (s.setValid .hdr).valid ∧ (packed (stored s)).lzP = s.lzP ∧
      (packed (stored s)).bwCnt = s.bwCnt ∧ (packed (stored s)).bwCur = s.bwCur := by
  simp [packed, stored, State.setValid]

/-- The stages of `COMPRESS` from a state with no unit valid (45_orchestration R234). -/
theorem compressStages_compressed {c : Config} (hc : c.Bounded) (hfit : EncoderFits c) {s : State} (h1 : 1 ≤ s.len .inp)
    (hn : s.len .inp ≤ c.nMax) (hvalid : s.valid = 0#8) (hout : s.len .out = 0) (hbr : s.brPos = 0#32)
    (hdec : s.decMpos = 0#32) :
    ∃ t ps fs m, compressStages c s = .ok () t ∧ Compressed c s t ps fs m := by
  obtain ⟨r, fs, hcount, hmodel, hseen⟩ := ssCount_model h1 hn
  have htables₁ := putModel_hasTables fs (s.setRaw r)
  have hbuf₁ : ∀ sp, ((s.setRaw r).putModel fs).buf sp = s.buf sp := fun sp => by simp [State.putModel]
  have hfields₁ : ((s.setRaw r).putModel fs).valid = (s.setValid .ss).valid ∧ ((s.setRaw r).putModel fs).brPos = s.brPos ∧
      ((s.setRaw r).putModel fs).decMpos = s.decMpos := ⟨rfl, rfl, rfl⟩
  generalize (s.setRaw r).putModel fs = s₁ at hcount htables₁ hbuf₁ hfields₁
  obtain ⟨hvalid₁, hbr₁, hdec₁⟩ := hfields₁
  have hlen₁ : s₁.len .inp = s.len .inp := State.len_congr (hbuf₁ _)
  have hbyte₁ : s₁.byte .inp = s.byte .inp := funext (State.byte_congr (hbuf₁ _))
  obtain ⟨s₃, s₄, ps, hparse, hflush, hpieces, hcnt, hcur, hlzP, hbeside₄, hvalid₄⟩ := parse_and_flush hc (s := s₁) (by omega)
  rw [hbyte₁, hlen₁] at hpieces
  have htables₄ := htables₁.congr hbeside₄
  have hss₄ : s₄.isValid .ss = true := by
    rw [isValid_of_valid hvalid₄, State.setValid_isValid, isValid_of_valid hvalid₁, State.setValid_isValid]
    rfl
  have hlits : (litsOf ps).length ≤ c.nMax := by
    have := hpieces.covers.lengths.1
    omega
  obtain ⟨s₆, s₇, m, hput, hre, hcode, hframe⟩ := encode_literals hc hfit hss₄ (htables₄.modelOk hmodel)
    (fun x hx => by
      rw [hpieces.lits] at hx
      obtain ⟨i, hi, rfl⟩ := hpieces.covers.lit_mem hx
      rw [htables₄.freq_eq hmodel]
      exact hseen i hi)
    (by rw [← State.contents_length, hpieces.lits]; exact hlits)
  rw [hpieces.lits] at hcode
  have hbeside₇ : s₇.beside = s₁.beside := ((beside_of_withoutEncoder hframe).trans rfl).trans hbeside₄
  have hbuf₇ : ∀ sp, sp ≠ .rans → s₇.buf sp = s₄.buf sp := fun sp hsp => by
    rw [buf_of_withoutEncoder hframe hsp, State.clearValid_buf, State.setValid_buf]
  have hvalid₇ : s₇.valid = ((s₄.setValid .re).clearValid .re).valid := by
    simpa [State.withoutEncoder] using congrArg State.valid hframe
  have hcnt₇ : s₇.bwCnt = s₄.bwCnt := by simpa [State.withoutEncoder] using congrArg State.bwCnt hframe
  have hcur₇ : s₇.bwCur = s₄.bwCur := by simpa [State.withoutEncoder] using congrArg State.bwCur hframe
  have hlzP₇ : s₇.lzP = s₄.lzP := by simpa [State.withoutEncoder] using congrArg State.lzP hframe
  have hss₇ : s₇.isValid .ss = true := by
    rw [isValid_of_valid hvalid₇, State.clearValid_isValid, State.setValid_isValid, hss₄]
    rfl
  have hre₇ : s₇.isValid .re = false := by
    rw [isValid_of_valid hvalid₇, State.clearValid_isValid]
    rfl
  obtain ⟨hmlen, hregion⟩ := stored_region s₇
  have hpieces₇ : s₇.HoldsPieces (s.byte .inp) (s.len .inp) ps := hpieces.congr (by simp [hbuf₇])
  have hpieces₈ : (stored s₇).HoldsPieces (s.byte .inp) (s.len .inp) ps := hpieces₇.congr (by simp [stored_buf])
  have hbeside₈ : (stored s₇).beside = s₇.beside := by
    simp [State.beside, stored, State.load, State.setLen, State.writeBytes]
  have hcode₈ : (stored s₇).HoldsCode c (litsOf ps) m := hcode.congr (stored_buf (by decide) _) hbeside₈
  have hfits := regions_fit hpieces₈ hcode₈ hmlen hn
  have hlen₈ : (packBytes (stored s₇)).length < 2 ^ 32 := by
    refine lt_of_le_of_lt ?_ (capacity_lt hc .art)
    have hr := hfits .rans (by simp)
    have hf := hfits .flags (by simp)
    have hm := hfits .mtch (by simp)
    simp only [capacity] at hr hf hm
    rw [packBytes_length, hmlen]
    simp only [capacity, headerSize, modelSize]
    omega
  have hfields := packed_stored_fields s₇
  have hbeside := packed_stored_beside s₇
  have hpack := ctPack_packed hmlen (c := c) (s := stored s₇) (by simp [stored, hcnt₇, hcnt]) (by simp [stored, hre₇]) hfits
  have hartifact := packed_holdsArtifact hlen₈
  have hpieces₉ := hpieces₈.congr (t := packed (stored s₇)) (by simp [packed_buf])
  have hcode₉ := hcode₈.congr (t := packed (stored s₇)) (packed_buf (by decide) _) (hbeside.trans hbeside₈.symm)
  have hmodel₉ := packed_buf (sp := .model) (by decide) (stored s₇)
  have hstages : compressStages c s = .ok () (packed (stored s₇)) := by
    rw [compressStages, hcount, Res.bind_ok, hparse, Res.bind_ok, hflush, Res.bind_ok, hput, Res.bind_ok, hre, Res.bind_ok,
      ssStore_stored hss₇, Res.bind_ok, hpack]
  have hall := hbeside.trans hbeside₇
  simp only [State.beside, Prod.mk.injEq, hbuf₁] at hall
  obtain ⟨hinp, houtbuf, hbr₉, hdec₉, -, -⟩ := hall
  have hvalid₉ : (packed (stored s₇)).valid = 0x31#8 := by
    rw [hfields.1]
    simp only [State.setValid, State.clearValid, ValidBit.index] at hvalid₁ hvalid₄ hvalid₇ ⊢
    rw [hvalid₇, hvalid₄, hvalid₁, hvalid]
    rfl
  exact ⟨_, ps, fs, m, hstages, {
    model := hmodel
    tables := htables₁.congr (hbeside.trans hbeside₇)
    seen := hseen
    pieces := hpieces₉
    code := hcode₉
    modelLen := (State.len_congr hmodel₉).trans hmlen
    region := fun k hk => by
      rw [modelBytes_of_beside hbeside, hregion k hk, State.byte_congr hmodel₉]
    artifact := hartifact
    inp := hinp
    valid := hvalid₉
    lzP := (hfields.2.1.trans (hlzP₇.trans hlzP)).trans (congrArg Buf.len (hbuf₁ .inp))
    bwCnt := hfields.2.2.1.trans (hcnt₇.trans hcnt)
    bwCur := hfields.2.2.2.trans (hcur₇.trans hcur)
    outLen := (State.len_congr houtbuf).trans hout
    brPos := hbr₉.trans (hbr₁.trans hbr)
    decMpos := hdec₉.trans (hdec₁.trans hdec) }⟩

theorem Compressed.congr {c : Config} {s s' t : State} {ps : List Piece} {fs : List Nat} {m : Nat}
    (h : Compressed c s t ps fs m) (hi : s.buf .inp = s'.buf .inp) : Compressed c s' t ps fs m where
  model := h.model
  tables := h.tables
  seen i hlt := by
    rw [← State.byte_congr hi]
    exact h.seen i (by rwa [State.len_congr hi])
  pieces := by
    have hf : s.byte .inp = s'.byte .inp := funext (State.byte_congr hi)
    rw [← hf, ← State.len_congr hi]
    exact h.pieces
  code := h.code
  modelLen := h.modelLen
  region := h.region
  artifact := h.artifact
  inp := h.inp.trans hi
  valid := h.valid
  lzP := h.lzP.trans (congrArg Buf.len hi)
  bwCnt := h.bwCnt
  bwCur := h.bwCur
  outLen := h.outLen
  brPos := h.brPos
  decMpos := h.decMpos

/-- `COMPRESS` of an input of 1 to `N_MAX` bytes (45_orchestration R234). -/
theorem compress_compressed {c : Config} (hc : c.Bounded) (hfit : EncoderFits c) {s : State} (h1 : 1 ≤ s.len .inp)
    (hn : s.len .inp ≤ c.nMax) : ∃ t ps fs m, compress c s = .ok () t ∧ Compressed c s t ps fs m := by
  have hinp : (s.reinit c .inp).buf .inp = s.buf .inp := rfl
  have hlen := State.len_congr hinp
  obtain ⟨t, ps, fs, m, ht, hcomp⟩ := compressStages_compressed hc hfit (s := s.reinit c .inp) (by omega) (by omega) rfl rfl rfl rfl
  refine ⟨t, ps, fs, m, ?_, hcomp.congr hinp⟩
  rw [compress, checked_pass rfl (by simpa [capacity] using hn)]
  dsimp only
  rw [if_neg (by omega), ht]

/-! ### The state after the command -/

/-- The numbers of an artifact's header (44_container R211). -/
theorem State.HoldsArtifact.numbers {t : State} (h : t.HoldsArtifact) :
    t.number32 .art 0 = 0x4D49444F ∧ t.number32 .art 4 = t.len .inp ∧ t.number32 .art 8 = t.len .rans ∧
      t.number32 .art 12 = t.len .flags ∧ t.number32 .art 16 = t.len .mtch ∧ t.number32 .art 20 = t.len .model := by
  have hhdr := h.artHeader
  simp only [Machine.artHeader, packHeader, Header.mk.injEq] at hhdr
  obtain ⟨h0, h4, h8, h12, h16, h20⟩ := hhdr
  simp only [← State.field32_toNat, h0, h4, h8, h12, h16, h20]
  exact ⟨rfl, rfl, rfl, rfl, rfl, rfl⟩

theorem Compressed.regionFreq {c : Config} {s t : State} {ps : List Piece} {fs : List Nat} {m : Nat}
    (h : Compressed c s t ps fs m) (sym : Byte) :
    t.regionFreq .art (24 + t.len .rans + t.len .flags + t.len .mtch) sym = t.freq sym := by
  refine HasModelRegion.regionFreq (fun k hk => ?_) sym
  rw [h.artifact.regions.2.2.2 k (by rw [h.modelLen]; exact hk), h.region k hk, Nat.zero_add]

/-- `COMPRESS` writes none of the fields that its rule does not name. -/
theorem unchanged_compress {s t : State} (h : t.hostSide = s.hostSide) (hi : (t.buf .inp).len = (s.buf .inp).len) :
    ∀ v, Unchanged (writesOf .compress) s { t with status := v } := by
  simp only [State.hostSide, Prod.mk.injEq] at h
  obtain ⟨hcmd, harg0, harg1, hresult, -, hpending, hcfg⟩ := h
  intro v f hf
  cases f with
  | cmd => exact hcmd
  | arg0 => exact harg0
  | arg1 => exact harg1
  | result => exact hresult
  | pending => exact hpending
  | cfg => exact hcfg
  | len sp =>
    cases sp with
    | inp => exact hi
    | lit | rans | flags | mtch | model | art | out => simp [writesOf] at hf
  | _ => simp [writesOf] at hf

/-- Settles O46: `COMPRESS` leaves what `Compressed` says, and nothing of the host's side is written. -/
theorem compressCompletes : Obligations.CompressCompletes := by
  intro s herr hc hconst h1 hn
  have hfit : EncoderFits s.cfg := hconst.elim documented_encoderFits renormConsistent_encoderFits
  obtain ⟨t, ps, fs, m, ht, h⟩ := compress_compressed hc hfit h1 hn
  have hside : t.hostSide = s.hostSide := Res.keeps_ok_iff.mp (ht ▸ compress_keepsHost rfl)
  have hstatus : t.err = s.err := State.err_eq_of_status (by
    simp only [State.hostSide, Prod.mk.injEq] at hside
    exact hside.2.2.2.2.1)
  obtain ⟨k, hrec, hps⟩ := recordsOf_length ps
  have hmtch : t.len .mtch = 3 * k := by rw [← State.contents_length, h.pieces.records, hrec]
  have hlit : t.len .lit = (litsOf ps).length := by rw [← State.contents_length, h.pieces.lits]
  have hinp : t.buf .inp = s.buf .inp := h.inp
  have hinplen := State.len_congr hinp
  obtain ⟨n0, n4, n8, n12, n16, n20⟩ := h.artifact.numbers
  obtain ⟨r1, r2, r3, -⟩ := h.artifact.regions
  have hart := h.artifact.len
  have hcodelen := h.code.len
  have hcodele := h.code.le
  have hmodel := h.modelLen
  have hflags : t.len .flags = ceilDiv8 (t.len .lit + k) := by rw [h.pieces.flagsLen, hps, hlit]
  have hhdr : t.hdr = { magic := 0x4D49444F#32, origSize := s.inp.len, ransSize := t.rans.len, flagsSize := t.flags.len,
                        matchSize := t.mtch.len, modelSize := 512#32 } := by
    rw [h.artifact.hdr, packHeader, h.inp]
    congr 1
    exact BitVec.eq_of_toNat_eq hmodel
  exact ⟨t.setDone true, k, command_ok herr ht, by rw [State.setDone_status, hstatus, herr], h.valid, h.lzP, h.bwCnt,
    h.bwCur, h.outLen, h.brPos, h.decMpos, hmodel, hmtch, hflags, show 4 ≤ t.len .rans by omega,
    show t.len .rans ≤ 2 * t.len .lit + 4 by omega, hhdr,
    show t.len .art = 536 + t.len .rans + t.len .flags + t.len .mtch by omega, n0, n4.trans hinplen, n8, n12, n16,
    n20.trans hmodel, r1, r2, r3, h.regionFreq, unchanged_compress hside (congrArg Buf.len hinp) _, State.byte_congr hinp⟩

end Sys2Proof.Machine


/-! PROOFS. The decode loop over the pieces of a stream, and the round trip (spec 45_orchestration R236, R243, R245). -/

namespace Sys2Proof.Machine

/-! ### What the decode loop leaves alone -/

/-- The state but for what the decode loop writes: `OUT`, `BR.pos`, `RD.state`, `RD.ptr` and `DEC.mpos`. -/
def State.withoutDecoder (s : State) : State :=
  (((s.setBuf .out (Buf.fresh 0)).setBrPos 0#32).setDecoder 0#32 0#32).setDecMpos 0#32

section DecoderFrame
variable {s t : State} (h : t.withoutDecoder = s.withoutDecoder)
include h

theorem buf_of_withoutDecoder {sp : Space} (hsp : sp ≠ .out) : t.buf sp = s.buf sp := by
  have := congrArg (fun u => u.buf sp) h
  simpa [State.withoutDecoder, hsp] using this

theorem tables_of_withoutDecoder : t.freq = s.freq ∧ t.cumAt = s.cumAt := by
  have hf : t.freqs = s.freqs := by simpa [State.withoutDecoder] using congrArg State.freqs h
  have hc : t.cum = s.cum := by simpa [State.withoutDecoder] using congrArg State.cum h
  constructor
  · funext sym
    rw [State.freq, State.freq, hf]
  · funext i
    rw [State.cumAt, State.cumAt, hc]

theorem hdr_of_withoutDecoder : t.hdr = s.hdr := by
  simpa [State.withoutDecoder] using congrArg State.hdr h

theorem decReady_of_withoutDecoder : decReady t = decReady s := by
  have hv : t.valid = s.valid := by simpa [State.withoutDecoder] using congrArg State.valid h
  have hu := isValid_of_valid hv
  rw [decReady, decReady, hu, hu, hu, hu, hu, State.modelFull, State.modelFull, (tables_of_withoutDecoder h).2]

end DecoderFrame

/-- An update of the units the loop drives, and of its output. -/
theorem updates_withoutDecoder (s : State) (p x y m : Word) (b : Buf) :
    (s.setBrPos p).withoutDecoder = s.withoutDecoder ∧ (s.setDecoder x y).withoutDecoder = s.withoutDecoder ∧
      (s.setDecMpos m).withoutDecoder = s.withoutDecoder ∧ (s.setBuf .out b).withoutDecoder = s.withoutDecoder :=
  ⟨rfl, rfl, rfl, rfl⟩

/-! ### One token -/

/-- The decoder in the middle of a stream: it has put out the bytes of `f` below `p`, the pieces `ps` cover the rest up to `n`, and
their flags, records and literals are what the bit reader, the match region and the rANS decoder hold next. -/
structure State.Decoding (s : State) (c : Config) (f : Nat → Byte) (n p : Nat) (ps : List Piece) (e : Word × List Byte) :
    Prop where
  ready : decReady s = true
  model : s.ModelOk
  size : s.hdr.origSize.toNat = n
  fits : ∀ sp ∈ [Space.flags, .mtch, .rans], s.len sp ≤ capacity c sp
  outLen : s.len .out = p
  out : ∀ a, a < p → s.byte .out a = f a
  covers : Covers f p ps n
  flagsLeft : s.brPos.toNat + ps.length ≤ 8 * s.len .flags
  flags : ∀ j, j < ps.length → s.flagsBit (s.brPos.toNat + j) = (ps.map Piece.flag).getD j false
  recordsLeft : s.decMpos.toNat + (recordsOf ps).length ≤ s.len .mtch
  records : s.bytes .mtch s.decMpos.toNat (recordsOf ps).length = recordsOf ps
  literals : Decodes c s.freq s.low (litsOf ps) s.decoder e

section Token
variable {c : Config} {f : Nat → Byte} {n p : Nat} {e : Word × List Byte} {s : State} {pc : Piece} {ps : List Piece}

/-- The state behind a piece: what the loop leaves alone stays, and each unit has moved past the piece. -/
theorem State.Decoding.next (h : s.Decoding c f n p (pc :: ps) e) {t : State} (hframe : t.withoutDecoder = s.withoutDecoder)
    (hlen : t.len .out = p + pc.width) (hout : ∀ a, a < p + pc.width → t.byte .out a = f a)
    (hbr : t.brPos.toNat = s.brPos.toNat + 1) (hdec : t.decMpos.toNat = s.decMpos.toNat + pc.record.length)
    (hlits : Decodes c s.freq s.low (litsOf ps) t.decoder e) : t.Decoding c f n (p + pc.width) ps e := by
  obtain ⟨hfreq, hcum⟩ := tables_of_withoutDecoder hframe
  have hbuf := fun sp hsp => buf_of_withoutDecoder (sp := sp) hframe hsp
  have hlow : t.low = s.low := by
    funext sym
    rw [State.low, State.low, hcum]
  have hflags : ∀ j, t.flagsBit j = s.flagsBit j := fun j => by
    rw [State.flagsBit, State.flagsBit, State.len_congr (hbuf .flags (by decide)), State.byte_congr (hbuf .flags (by decide))]
  have hrec : recordsOf (pc :: ps) = pc.record ++ recordsOf ps := List.flatMap_cons
  have hrl := h.recordsLeft
  have hr := h.records
  have hfl := h.flagsLeft
  rw [hrec, List.length_append] at hrl hr
  rw [List.length_cons] at hfl
  refine ⟨?_, ?_, ?_, ?_, hlen, hout, h.covers.2, ?_, ?_, ?_, ?_, ?_⟩
  · rw [decReady_of_withoutDecoder hframe, h.ready]
  · rw [State.ModelOk, hfreq, hcum]
    exact h.model
  · rw [hdr_of_withoutDecoder hframe, h.size]
  · intro sp hsp
    rw [State.len_congr (hbuf sp (by rintro rfl; simp at hsp))]
    exact h.fits sp hsp
  · rw [State.len_congr (hbuf .flags (by decide))]
    omega
  · intro j hj
    rw [hflags, hbr, Nat.add_assoc, Nat.add_comm 1, h.flags (j + 1) (by simpa using hj)]
    rfl
  · rw [State.len_congr (hbuf .mtch (by decide))]
    omega
  · rw [State.bytes_congr (hbuf .mtch (by decide)), hdec]
    rw [State.bytes_add] at hr
    exact (List.append_inj hr (by simp)).2
  · rw [hfreq, hlow]
    exact hlits

/-- Before a piece the loop goes on, and every input of the step fits. -/
theorem State.Decoding.step_checks (h : s.Decoding c f n p (pc :: ps) e) (hn : n ≤ c.nMax) :
    p + pc.width ≤ n ∧ decMore s = true ∧ ∀ sp ∈ [Space.flags, .mtch, .rans, .out], s.len sp ≤ capacity c sp := by
  have hw := h.covers.1.width_pos
  have hle := h.covers.2.lengths.2
  refine ⟨by omega, ?_, fun sp hsp => ?_⟩
  · rw [decMore, h.outLen, h.size]
    exact decide_eq_true (by omega)
  · by_cases ho : sp = .out
    · subst ho
      rw [h.outLen]
      simp only [capacity]
      omega
    · exact h.fits sp (by simp only [List.mem_cons, List.not_mem_nil, or_false] at hsp ⊢; tauto)

/-- The flag bit of the next piece is read. -/
theorem State.Decoding.flag (h : s.Decoding c f n p (pc :: ps) e) : s.flagsBit s.brPos.toNat = pc.flag := by
  have := h.flags 0 (by simp)
  simpa using this

/-- A literal (45_orchestration R250). -/
theorem decStep_lit (hc : c.Bounded) (hn : n ≤ c.nMax) {b : Byte} (h : s.Decoding c f n p (.lit b :: ps) e) :
    ∃ t, decStep c s = .ok () t ∧ t.Decoding c f n (p + 1) ps e := by
  obtain ⟨hle, hmore, hfits⟩ := h.step_checks hn
  simp only [Piece.width] at hle
  obtain ⟨q, hq, hstep⟩ := decStep_ready hc h.ready hmore hfits
  rw [h.flag] at hstep
  have hfl := h.flagsLeft
  rw [List.length_cons] at hfl
  rw [if_pos (by omega)] at hq
  have hlits := h.literals
  obtain ⟨h1, h2, h3⟩ : Decodes c s.freq s.low (b :: litsOf ps) s.decoder e := hlits
  have hready := h.ready
  simp only [decReady, Bool.and_eq_true] at hready
  obtain ⟨⟨⟨-, hrd⟩, hss⟩, -⟩ := hready
  have hdec : (s.setBrPos q).decoder = s.decoder := by
    rw [State.decoder, State.decoder, State.stack_congr fun a _ => State.setBrPos_byte q s .rans a]
    rfl
  obtain ⟨x, y, hget, hdec'⟩ := rdGet_decoder (c := c) (s := s.setBrPos q) (sym := b) hrd hss h.model
    (by simpa using h.fits .rans (by simp)) (by rw [hdec]; exact h1) (by rw [hdec]; exact h2)
  rw [hdec] at hdec'
  have hout : ((s.setBrPos q).setDecoder x y).len .out = p := by simpa using h.outLen
  obtain ⟨t, ht⟩ : ∃ t, append c .out b ((s.setBrPos q).setDecoder x y) = .ok () t :=
    ⟨_, append_ok b (by rw [hout]; simp only [capacity]; omega)⟩
  obtain ⟨-, hlen, hbyte, hkeep, -⟩ := append_spec hc ht
  have hframe := append_frame ht
  rw [hout] at hlen hbyte hkeep
  refine ⟨t, ?_, h.next ?_ hlen (fun a ha => ?_) ?_ ?_ ?_⟩
  · rw [hstep]
    change litToken c (s.setBrPos q) = _
    rw [litToken, hget, Res.bind_ok, ht]
  · obtain ⟨h1, -, -, -⟩ := updates_withoutDecoder s q x y 0#32 (t.buf .out)
    obtain ⟨-, h2, -, -⟩ := updates_withoutDecoder (s.setBrPos q) q x y 0#32 (t.buf .out)
    obtain ⟨-, -, -, h3⟩ := updates_withoutDecoder ((s.setBrPos q).setDecoder x y) q x y 0#32 (t.buf .out)
    rw [hframe, h3, h2, h1]
  · by_cases hap : a = p
    · rw [hap, hbyte]
      exact h.covers.1
    · rw [hkeep a hap, State.setDecoder_byte, State.setBrPos_byte]
      exact h.out a (by simp only [Piece.width] at ha; omega)
  · rw [hframe, State.setBuf_brPos]
    exact hq
  · rw [hframe, State.setBuf_decMpos]
    rfl
  · have hd : t.decoder = ((s.setBrPos q).setDecoder x y).decoder := by
      rw [hframe, State.decoder, State.decoder, State.setBuf_rdState, State.setBuf_rdPtr]
      rw [State.stack_congr fun a _ => State.byte_congr (State.setBuf_buf_ne (by decide) _ _) a]
    rw [hd, hdec']
    exact h3

/-- A match (45_orchestration R251, 20_memory R82). -/
theorem decStep_match (hc : c.Bounded) (hn : n ≤ c.nMax) {dist : Half} {len : Byte}
    (h : s.Decoding c f n p (.mtch dist len :: ps) e) :
    ∃ t, decStep c s = .ok () t ∧ t.Decoding c f n (p + len.toNat) ps e := by
  obtain ⟨hle, hmore, hfits⟩ := h.step_checks hn
  simp only [Piece.width] at hle
  obtain ⟨hd1, hd2, -, hd4, hcopy⟩ := h.covers.1
  obtain ⟨q, hq, hstep⟩ := decStep_ready hc h.ready hmore hfits
  rw [h.flag] at hstep
  have hfl := h.flagsLeft
  rw [List.length_cons] at hfl
  rw [if_pos (by omega)] at hq
  have hrec : recordsOf (.mtch dist len :: ps) = (bytesLe16 dist ++ [len]) ++ recordsOf ps := List.flatMap_cons
  have hleft := h.recordsLeft
  have hbytes := h.records
  have hlen3 : (bytesLe16 dist ++ [len]).length = 3 := rfl
  rw [hrec, List.length_append, hlen3] at hleft hbytes
  have hrecord : s.recordHere = bytesLe16 dist ++ [len] := by
    rw [State.recordHere, show min 3 (s.len .mtch - s.decMpos.toNat) = 3 by omega]
    rw [State.bytes_add] at hbytes
    exact (List.append_inj hbytes (by simp)).1
  have htoken : decodeToken true s.recordHere = .ok (.mtch dist len, []) := by
    rw [hrecord]
    exact congrArg (fun d => Except.ok (Token.mtch d len, [])) (le16_bytesLe16 dist)
  have hm : (s.decMpos + 3#32).toNat = s.decMpos.toNat + 3 := by
    have hcap := capacity_lt hc .mtch
    have hfit := h.fits .mtch (by simp)
    rw [BitVec.toNat_add]
    simp
    omega
  have hout : ((s.setBrPos q).setDecMpos (s.decMpos + 3#32)).len .out = p := by simpa using h.outLen
  obtain ⟨t, ht⟩ := copyOut_ok hc (n := len.toNat) (src := p - dist.toNat)
    (s := (s.setBrPos q).setDecMpos (s.decMpos + 3#32)) (by rw [hout]; simp only [capacity]; omega)
  obtain ⟨hframe, hlen, hnew, hkeep⟩ := copyOut_spec hc (by rw [hout]; omega) ht
  rw [hout] at hlen hnew hkeep
  have hold : ∀ a, a < p → t.byte .out a = f a := fun a ha => by
    rw [hkeep a (.inl ha), State.setDecMpos_byte, State.setBrPos_byte, h.out a ha]
  refine ⟨t, ?_, h.next ?_ hlen (fun a ha => ?_) ?_ ?_ ?_⟩
  · rw [hstep, show (Piece.mtch dist len).flag = true from rfl, htoken]
    change matchToken c dist len (s.setBrPos q) = _
    have hd0 : dist ≠ 0#16 := by
      rintro rfl
      simp at hd1
    have hnot : ¬ (dist = 0#16 ∨ ((s.setBrPos q).setDecMpos (s.decMpos + 3#32)).len .out < dist.toNat) := by
      rw [hout]
      rintro (hz | hz)
      · exact hd0 hz
      · omega
    rw [matchToken, State.setBrPos_decMpos, if_neg hnot, hout, ht]
  · obtain ⟨h1, -, -, -⟩ := updates_withoutDecoder s q 0#32 0#32 0#32 (t.buf .out)
    obtain ⟨-, -, h2, -⟩ := updates_withoutDecoder (s.setBrPos q) q 0#32 0#32 (s.decMpos + 3#32) (t.buf .out)
    obtain ⟨-, -, -, h3⟩ := updates_withoutDecoder ((s.setBrPos q).setDecMpos (s.decMpos + 3#32)) q 0#32 0#32 0#32 (t.buf .out)
    rw [hframe, h3, h2, h1]
  · by_cases hap : a < p
    · exact hold a hap
    · obtain ⟨k, rfl⟩ : ∃ k, a = p + k := ⟨a - p, by omega⟩
      have hk : k < len.toNat := by
        simp only [Piece.width] at ha
        omega
      rw [hnew k hk, hold _ (by omega), hcopy k hk]
  · rw [hframe, State.setBuf_brPos]
    exact hq
  · rw [hframe, State.setBuf_decMpos]
    exact hm
  · have hd : t.decoder = s.decoder := by
      rw [hframe, State.decoder, State.decoder, State.setBuf_rdState, State.setBuf_rdPtr]
      rw [State.stack_congr fun a _ => State.byte_congr (State.setBuf_buf_ne (by decide) _ _) a]
      simp only [State.setDecMpos_rdState, State.setBrPos_rdState, State.setDecMpos_rdPtr, State.setBrPos_rdPtr]
      rw [State.stack_congr fun a _ => (State.setDecMpos_byte _ _ _ _).trans (State.setBrPos_byte q s .rans a)]
    rw [hd]
    exact h.literals

/-- The loop decodes every piece. -/
theorem decLoop_decoding (hc : c.Bounded) (hn : n ≤ c.nMax) {fuel : Nat} (h : s.Decoding c f n p ps e)
    (hfuel : ps.length ≤ fuel) : ∃ t, decLoop c fuel s = .ok () t ∧ t.Decoding c f n n [] e := by
  induction ps generalizing s p fuel with
  | nil =>
    obtain rfl : p = n := h.covers
    have hstop : decMore s = false := by
      rw [decMore, h.outLen, h.size]
      exact decide_eq_false (lt_irrefl _)
    exact ⟨s, decLoop_stop hstop, h⟩
  | cons pc ps ih =>
    obtain ⟨-, hmore, -⟩ := h.step_checks hn
    obtain ⟨u, hu, hdec⟩ : ∃ u, decStep c s = .ok () u ∧ u.Decoding c f n (p + pc.width) ps e := by
      cases pc with
      | lit b => exact decStep_lit hc hn h
      | mtch dist len => exact decStep_match hc hn h
    cases fuel with
    | zero => simp at hfuel
    | succ fuel =>
      obtain ⟨t, ht, hend⟩ := ih hdec (by simpa using hfuel)
      exact ⟨t, by rw [decLoop_step hmore, hu, Res.bind_ok, ht], hend⟩

/-- `DEC.RUN` of a whole stream puts out `f` (45_orchestration R243). -/
theorem decRun_decoding (hc : c.Bounded) (hn : n ≤ c.nMax) (h : s.Decoding c f n 0 ps e) :
    ∃ t, decRun c s = .ok () t ∧ t.len .out = n ∧ ∀ a, a < n → t.byte .out a = f a := by
  have hle := h.covers.lengths.2
  obtain ⟨t, ht, hend⟩ := decLoop_decoding hc hn (fuel := s.hdr.origSize.toNat + s.len .mtch / 3) h
    (by rw [h.size]; omega)
  have hdone : decEnd c t = t := by
    rw [decEnd, if_neg]
    rw [hend.size, hend.outLen]
    exact fun hx => lt_irrefl _ hx.2
  refine ⟨t, ?_, hend.outLen, hend.out⟩
  rw [decRun, checked_pass h.ready (by simp), ht, Res.bind_ok, hdone]

end Token

end Sys2Proof.Machine


/-! PROOFS. `DECOMPRESS` of the artifact that `COMPRESS` left (spec 45_orchestration R236, R245). -/

namespace Sys2Proof.Machine

/-! ### Unpacking -/

/-- Equal contents: equal lengths, and equal bytes below them. -/
theorem State.byte_of_contents {s t : State} {sp : Space} (h : t.contents sp = s.contents sp) :
    t.len sp = s.len sp ∧ ∀ k, k < s.len sp → t.byte sp k = s.byte sp k := by
  have hlen : t.len sp = s.len sp := by rw [← State.contents_length, h, State.contents_length]
  refine ⟨hlen, fun k hk => ?_⟩
  have hk' : k < (t.contents sp).length := by rw [State.contents_length]; omega
  rw [← State.contents_getElem t sp k hk', ← State.contents_getElem s sp k (by simpa using hk)]
  exact List.getElem_of_eq h hk'

theorem artHeader_congr {s t : State} (h : t.buf .art = s.buf .art) : artHeader t = artHeader s := by
  have hb := State.byte_congr h
  simp only [artHeader, State.field32, hb]

/-- The regions are taken out of `ART` at their places (44_container R214). -/
theorem unpackRegions_contents {r f m : Nat} {s : State} (hr : r < 2 ^ 32) (hf : f < 2 ^ 32) (hm : m < 2 ^ 32) :
    (unpackRegions r f m s).contents .rans = s.bytes .art 24 r ∧
      (unpackRegions r f m s).contents .flags = s.bytes .art (24 + r) f ∧
      (unpackRegions r f m s).contents .mtch = s.bytes .art (24 + r + f) m ∧
      (unpackRegions r f m s).contents .model = s.bytes .art (24 + r + f + m) 512 := by
  have hload : ∀ (sp sp' : Space) (bs : List Byte) (u : State), sp' ≠ sp → (u.load sp bs).contents sp' = u.contents sp' :=
    fun sp sp' bs u hsp => State.contents_congr (by simp [State.load, State.setLen, State.writeBytes, hsp])
  rw [unpackRegions]
  refine ⟨?_, ?_, ?_, ?_⟩
  · rw [hload _ _ _ _ (by decide), hload _ _ _ _ (by decide), hload _ _ _ _ (by decide), load_contents (by simpa using hr)]
  · rw [hload _ _ _ _ (by decide), hload _ _ _ _ (by decide), load_contents (by simpa using hf)]
  · rw [hload _ _ _ _ (by decide), load_contents (by simpa using hm)]
  · rw [load_contents (by rw [State.bytes_length]; decide)]

theorem unpackRegions_hdr (r f m : Nat) (s : State) : (unpackRegions r f m s).hdr = s.hdr := by
  simp [unpackRegions]

/-- A range of `ART` that holds a region of `t` is that region. -/
theorem bytes_eq_contents {s t : State} {sp : Space} {o : Nat} (hb : s.buf .art = t.buf .art)
    (h : ∀ k, k < t.len sp → t.byte .art (o + k) = t.byte sp k) : s.bytes .art o (t.len sp) = t.contents sp := by
  rw [State.contents, State.bytes_congr hb]
  refine List.map_congr_left fun k hk => ?_
  rw [Nat.zero_add]
  exact h k (List.mem_range.mp hk)

/-- `CT.UNPACK` of an artifact gives its header and its regions back (44_container R217). -/
theorem ctUnpack_restores {c : Config} {s t : State} (ha : t.HoldsArtifact) (hb : s.buf .art = t.buf .art)
    (hr : 4 ≤ t.len .rans) (hm : t.len .model = 512) (hcap : t.len .art ≤ capacity c .art)
    (hfits : ∀ sp ∈ [Space.rans, .flags, .mtch, .model], t.len sp ≤ capacity c sp) :
    ∃ u, ctUnpack c s = .ok () u ∧ u.hdr = packHeader t ∧ u.isValid .hdr = true ∧
      ∀ sp ∈ [Space.rans, .flags, .mtch, .model], u.contents sp = t.contents sp := by
  have hlen := State.len_congr hb
  have hart := ha.len
  obtain ⟨r1, r2, r3, r4⟩ := ha.regions
  refine ⟨(unpackRegions (t.len .rans) (t.len .flags) (t.len .mtch) (s.setHdr (packHeader t))).setValid .hdr, ?_, ?_, ?_, ?_⟩
  · have hsize : (packHeader t).modelSize.toNat = 512 := hm
    have h1 : ¬ s.len .art < headerSize := by rw [hlen, hart]; simp only [headerSize]; omega
    have h2 : ¬ ((packHeader t).modelSize.toNat ≠ modelSize ∨ t.len .rans < 4) := by
      rw [hsize]
      simp only [modelSize]
      omega
    have h3 : ¬ s.len .art < headerSize + t.len .rans + t.len .flags + t.len .mtch + (packHeader t).modelSize.toNat := by
      rw [hsize]
      simp only [headerSize]
      omega
    have h4 : ¬ (capacity c .rans < t.len .rans ∨ capacity c .flags < t.len .flags ∨ capacity c .mtch < t.len .mtch) := by
      have := hfits .rans (by simp)
      have := hfits .flags (by simp)
      have := hfits .mtch (by simp)
      omega
    rw [ctUnpack, checked_pass rfl (by simpa [hlen] using hcap), if_neg h1, artHeader_congr hb, ha.artHeader]
    exact (if_neg (by simp [packHeader])).trans ((if_neg h2).trans ((if_neg h3).trans (if_neg h4)))
  · rw [State.setValid_hdr, unpackRegions_hdr, State.setHdr_hdr]
  · simp [State.setValid_isValid]
  · have hb' : (s.setHdr (packHeader t)).buf .art = t.buf .art := (State.setHdr_buf _ _ _).trans hb
    obtain ⟨c1, c2, c3, c4⟩ := unpackRegions_contents (s := s.setHdr (packHeader t)) (t.buf .rans).len.isLt
      (t.buf .flags).len.isLt (t.buf .mtch).len.isLt
    have h4 := bytes_eq_contents hb' r4
    rw [hm] at h4
    intro sp hsp
    rw [State.contents_congr (State.setValid_buf _ _ _)]
    simp only [List.mem_cons, List.not_mem_nil, or_false] at hsp
    rcases hsp with rfl | rfl | rfl | rfl
    · exact c1.trans (bytes_eq_contents hb' r1)
    · exact c2.trans (bytes_eq_contents hb' r2)
    · exact c3.trans (bytes_eq_contents hb' r3)
    · exact c4.trans h4

/-! ### The units are set up -/

/-- The state the unit commands of `DECOMPRESS` leave behind `CT.UNPACK` and `SS.LOAD` (45_orchestration R236). -/
def decoderSetUp (x p : Word) (s : State) : State :=
  ((((((s.setDecoder x p).setValid .rd).setBrPos 0#32).setValid .br).setDecMpos 0#32).setLen .out 0#32).setValid .dec

theorem decoderSetUp_buf {sp : Space} (hsp : sp ≠ .out) (x p : Word) (s : State) : (decoderSetUp x p s).buf sp = s.buf sp := by
  simp [decoderSetUp, State.setLen, hsp]

theorem decoderSetUp_len_out (x p : Word) (s : State) : (decoderSetUp x p s).len .out = 0 := by
  simp [decoderSetUp]

theorem decoderSetUp_fields (x p : Word) (s : State) :
    (decoderSetUp x p s).hdr = s.hdr ∧ (decoderSetUp x p s).freqs = s.freqs ∧ (decoderSetUp x p s).cum = s.cum ∧
      (decoderSetUp x p s).brPos = 0#32 ∧ (decoderSetUp x p s).decMpos = 0#32 ∧ (decoderSetUp x p s).rdState = x ∧
      (decoderSetUp x p s).rdPtr = p := by
  simp [decoderSetUp]

theorem decoderSetUp_isValid {x p : Word} {s : State} (hh : s.isValid .hdr = true) (hs : s.isValid .ss = true) :
    ∀ v ∈ [ValidBit.dec, .hdr, .br, .rd, .ss], (decoderSetUp x p s).isValid v = true := by
  simp [decoderSetUp, State.setValid_isValid, hh, hs]

theorem putModel_isValid (fs : List Nat) (s : State) (v : ValidBit) :
    (s.putModel fs).isValid v = (decide (ValidBit.ss = v) || s.isValid v) := by
  rw [State.putModel, State.setValid_isValid, State.setTables_isValid]

theorem putModel_buf (fs : List Nat) (s : State) (sp : Space) : (s.putModel fs).buf sp = s.buf sp := by
  simp [State.putModel]

/-- `RD.INIT`, `BR.INIT` and `DEC.INIT` over an unpacked artifact with its model loaded. -/
theorem decoder_inits {c : Config} {s : State} {m : Nat} (hlen : s.len .rans = m + 4)
    (hrans : s.len .rans ≤ capacity c .rans) (hflags : s.len .flags ≤ capacity c .flags) (hh : s.isValid .hdr = true)
    (hsize : s.hdr.origSize.toNat ≤ c.nMax) :
    ∃ x p, ((rdInit c s).bind fun _ s => (brInit c s).bind fun _ s => (decInit c s).bind fun _ s => decRun c s) =
        decRun c (decoderSetUp x p s) ∧
      (decoderSetUp x p s).decoder = (s.field32 .rans m, s.stack m) := by
  obtain ⟨x, p, hrd, hdec⟩ := rdInit_decoder hlen hrans
  refine ⟨x, p, ?_, ?_⟩
  · rw [hrd, Res.bind_ok, brInit, checked_pass rfl (by simpa using hflags), Res.bind_ok, decInit,
      checked_pass (by simpa [State.setValid_isValid] using hh) (by simp), if_neg (by simpa using hsize), Res.bind_ok]
    rfl
  · rw [← hdec, State.decoder, State.decoder]
    obtain ⟨-, -, -, -, -, hx, hp⟩ := decoderSetUp_fields x p s
    rw [hx, hp, State.stack_congr fun a _ => State.byte_congr (decoderSetUp_buf (by decide) x p s) a,
      State.stack_congr (s := (s.setDecoder x p).setValid .rd) fun a _ =>
        (State.setValid_byte _ _ _ _).trans (State.setDecoder_byte _ _ s .rans a)]
    rfl

/-! ### The round trip -/

section RoundTrip
variable {c : Config} {s t : State} {ps : List Piece} {fs : List Nat} {m : Nat}

/-- The state behind the unit commands decodes the pieces that `COMPRESS` put out. -/
theorem Compressed.decoding (h : Compressed c s t ps fs m) (hn : s.len .inp ≤ c.nMax) {u : State} {x p : Word}
    {e : Word × List Byte} (hhdr : u.hdr = packHeader t) (hvalid : u.isValid .hdr = true)
    (hcontents : ∀ sp ∈ [Space.rans, .flags, .mtch, .model], u.contents sp = t.contents sp)
    (hcode : (decoderSetUp x p (u.putModel fs)).decoder = (t.field32 .rans m, t.stack m))
    (hdec : Decodes c t.freq t.low (litsOf ps) (encAll c t.freq t.low (litsOf ps)) e) :
    (decoderSetUp x p (u.putModel fs)).Decoding c (s.byte .inp) (s.len .inp) 0 ps e := by
  obtain ⟨fhdr, ffreqs, fcum, fbr, fdec, -, -⟩ := decoderSetUp_fields x p (u.putModel fs)
  have hbuf : ∀ sp, sp ≠ .out → (decoderSetUp x p (u.putModel fs)).buf sp = u.buf sp := fun sp hsp =>
    (decoderSetUp_buf hsp x p _).trans (putModel_buf fs u sp)
  have htables : (decoderSetUp x p (u.putModel fs)).HasTables fs := ⟨ffreqs, fcum⟩
  have hvalids := decoderSetUp_isValid (x := x) (p := p) (s := u.putModel fs)
    (by rw [putModel_isValid, hvalid]; rfl) (by rw [putModel_isValid]; rfl)
  have hout := decoderSetUp_len_out x p (u.putModel fs)
  generalize decoderSetUp x p (u.putModel fs) = v at *
  have hvcontents : ∀ sp ∈ [Space.rans, .flags, .mtch, .model], v.contents sp = t.contents sp := fun sp hsp =>
    (State.contents_congr (hbuf sp (by rintro rfl; simp at hsp))).trans (hcontents sp hsp)
  have hmodel := htables.modelOk h.model
  have hfreq : v.freq = t.freq := funext fun sym => by rw [htables.freq_eq h.model, h.tables.freq_eq h.model]
  have hlow : v.low = t.low := funext fun sym => by
    rw [State.low, State.low, State.cumAt, State.cumAt, htables.cum, h.tables.cum]
  have hfits := regions_fit h.pieces h.code h.modelLen hn
  have hlens : ∀ sp ∈ [Space.rans, .flags, .mtch, .model], v.len sp = t.len sp := fun sp hsp =>
    (State.byte_of_contents (hvcontents sp hsp)).1
  have hflagslen := hlens .flags (by simp)
  have hmtchlen := hlens .mtch (by simp)
  have hpieces := h.pieces.flagsLen
  have hrecords : t.len .mtch = (recordsOf ps).length := by rw [← State.contents_length, h.pieces.records]
  rw [ceilDiv8] at hpieces
  refine ⟨?_, hmodel, ?_, ?_, hout, fun a ha => absurd ha (Nat.not_lt_zero a), h.pieces.covers, ?_, ?_, ?_, ?_, ?_⟩
  · simp only [List.mem_cons, List.not_mem_nil, or_false, forall_eq_or_imp, forall_eq] at hvalids
    obtain ⟨v1, v2, v3, v4, v5⟩ := hvalids
    simp [decReady, v1, v2, v3, v4, v5, State.modelFull, hmodel.2.2]
  · rw [fhdr]
    change u.hdr.origSize.toNat = _
    rw [hhdr]
    exact State.len_congr (sp := .inp) h.inp
  · intro sp hsp
    have hsp' : sp ∈ [Space.rans, .flags, .mtch, .model] := by
      simp only [List.mem_cons, List.not_mem_nil, or_false] at hsp ⊢
      tauto
    rw [hlens sp hsp']
    exact hfits sp hsp'
  · rw [fbr, hflagslen]
    simp only [BitVec.toNat_ofNat]
    omega
  · intro j hj
    have hbyte := (State.byte_of_contents (hvcontents .flags (by simp))).2
    rw [fbr, ← h.pieces.flags, State.flagsBit, State.flagsBit, hflagslen]
    simp only [BitVec.toNat_ofNat, Nat.zero_mod, Nat.zero_add]
    rw [hbyte _ (by omega)]
  · rw [fdec, hmtchlen, hrecords]
    exact (Nat.zero_add _).le
  · have := hvcontents .mtch (by simp)
    rw [State.contents, hmtchlen, hrecords, h.pieces.records] at this
    rw [fdec]
    exact this
  · rw [hfreq, hlow, hcode, h.code.code]
    exact hdec

/-- `DECOMPRESS` of what `COMPRESS` left returns the input, where the rANS decoder returns the literals (45_orchestration R245). -/
theorem Compressed.decompress (hc : c.Bounded) (h : Compressed c s t ps fs m) (hn : s.len .inp ≤ c.nMax) {t' : State}
    (ht' : t'.buf .art = t.buf .art) {e : Word × List Byte}
    (hdec : Decodes c t.freq t.low (litsOf ps) (encAll c t.freq t.low (litsOf ps)) e) :
    ∃ u, Machine.decompress c t' = .ok () u ∧ u.len .out = s.len .inp ∧ ∀ a, a < s.len .inp → u.byte .out a = s.byte .inp a := by
  have hfits := regions_fit h.pieces h.code h.modelLen hn
  have hcap : t.len .art ≤ capacity c .art := by
    have hr := hfits .rans (by simp)
    have hf := hfits .flags (by simp)
    have hm := hfits .mtch (by simp)
    simp only [capacity] at hr hf hm
    rw [h.artifact.len, h.modelLen]
    simp only [capacity, headerSize, modelSize]
    omega
  have hrlen := h.code.len
  obtain ⟨u, hu, hhdr, hvalid, hcontents⟩ := ctUnpack_restores (c := c) (s := t'.reinit c .art) h.artifact ht' (by omega)
    h.modelLen hcap hfits
  have hregion : HasModelRegion t u .model 0 := fun k hk => by
    rw [h.region k hk, Nat.zero_add, (State.byte_of_contents (hcontents .model (by simp))).2 k (by rwa [h.modelLen])]
  have hmlen : u.len .model = 512 := (State.byte_of_contents (hcontents .model (by simp))).1.trans h.modelLen
  have hload := ssLoad_putModel (c := c) h.tables h.model hmlen hregion
  obtain ⟨hulen, hubyte⟩ := State.byte_of_contents (hcontents .rans (by simp))
  have hpbuf : (u.putModel fs).buf .rans = u.buf .rans := putModel_buf fs u .rans
  have hplen : (u.putModel fs).len .rans = m + 4 := (State.len_congr hpbuf).trans (hulen.trans hrlen)
  have hsize : (u.putModel fs).hdr.origSize.toNat ≤ c.nMax := by
    change u.hdr.origSize.toNat ≤ _
    rw [hhdr]
    exact (State.len_congr (sp := .inp) h.inp).le.trans hn
  obtain ⟨x, p, hinits, hcode⟩ := decoder_inits (c := c) hplen (by rw [hplen, ← hrlen]; exact hfits .rans (by simp))
    (by
      rw [State.len_congr (putModel_buf fs u .flags), (State.byte_of_contents (hcontents .flags (by simp))).1]
      exact hfits .flags (by simp))
    (by rw [putModel_isValid, hvalid]; rfl) hsize
  have hbyte : ∀ a, a < m + 4 → (u.putModel fs).byte .rans a = t.byte .rans a := fun a ha => by
    rw [State.byte_congr hpbuf, hubyte a (by omega)]
  have hcode' : (decoderSetUp x p (u.putModel fs)).decoder = (t.field32 .rans m, t.stack m) := by
    rw [hcode, State.stack_congr fun a ha => hbyte a (by omega), State.field32, State.field32, hbyte _ (by omega),
      hbyte _ (by omega), hbyte _ (by omega), hbyte _ (by omega)]
  obtain ⟨w, hw, hlen, hbytes⟩ := decRun_decoding hc hn (h.decoding hn hhdr hvalid hcontents hcode' hdec)
  refine ⟨w, ?_, hlen, hbytes⟩
  rw [Machine.decompress, checked_pass rfl (by simpa [State.len_congr ht'] using hcap), hu, Res.bind_ok, hload, Res.bind_ok,
    hinits, hw]

end RoundTrip

/-- Settles O59: `COMPRESS` leaves what `Compressed` says, the rANS decoder returns the literals for consistent constants
(`decodes_encAll`), and so `DECOMPRESS` returns the input. -/
theorem roundTripUnderRenormConsistent : Obligations.RoundTripUnderRenormConsistent := by
  intro s herr hc hrc hmul h1 hn
  obtain ⟨t, ps, fs, m, ht, h⟩ := compress_compressed hc (renormConsistent_encoderFits hrc) h1 hn
  have hmodel := h.tables.modelOk h.model
  have hseen : ∀ x ∈ litsOf ps, 1 ≤ t.freq x := fun x hx => by
    obtain ⟨i, hi, rfl⟩ := h.pieces.covers.lit_mem hx
    rw [h.tables.freq_eq h.model]
    exact h.seen i hi
  obtain ⟨-, hdec⟩ := decodes_encAll hrc hmul (low := t.low) hseen hmodel.freq_le
  obtain ⟨u, hu, hlen, hbytes⟩ := h.decompress hc hn (State.setDone_buf true t .art) hdec
  have hside : t.hostSide = s.hostSide := Res.keeps_ok_iff.mp (ht ▸ compress_keepsHost rfl)
  have huside : u.hostSide = (t.setDone true).hostSide := Res.keeps_ok_iff.mp (hu ▸ decompress_keepsHost rfl)
  simp only [State.hostSide, Prod.mk.injEq, State.setDone_cfg] at hside huside
  obtain ⟨-, -, -, -, hstatus, -, hcfg⟩ := hside
  obtain ⟨-, -, -, -, hustatus, -, -⟩ := huside
  have hterr : t.err = 0#4 := (State.err_eq_of_status hstatus).trans herr
  have hderr : (t.setDone true).err = 0#4 := (State.setDone_err true t).trans hterr
  have huerr : u.err = 0#4 := (State.err_eq_of_status hustatus).trans hderr
  have hexec : exec .decompress (t.setDone true) = .next (u.setDone true) := by
    refine command_ok (u := ()) hderr ?_
    rw [State.setDone_cfg, hcfg, hu]
  exact ⟨t.setDone true, u.setDone true, command_ok herr ht, by rw [State.setDone_status, hterr], hexec,
    by rw [State.setDone_status, huerr], hlen, hbytes⟩

end Sys2Proof.Machine


/-! PROOFS. A property of the state that the updates of the units keep is kept by the operations written over them (spec 10_state R20).
The invariants of every step and the frames of the commands are properties of that kind. -/

namespace Sys2Proof.Machine

section Sequences
variable {P Q : State → Prop} {c : Config} {s : State} {α β : Type}

/-- A property kept by each part of a sequence is kept by the sequence. -/
theorem Res.Keeps.andThen {r : Res α} {f : α → State → Res β} (hr : r.Keeps P) (hf : ∀ a t, P t → (f a t).Keeps P) :
    (r.bind f).Keeps P := hr.bind hf fun _ ht => ht

theorem Res.Keeps.and {r : Res α} (hP : r.Keeps P) (hQ : r.Keeps Q) : r.Keeps fun t => P t ∧ Q t := by
  cases hP with
  | ok a h => exact .ok a ⟨h, Res.keeps_ok_iff.mp hQ⟩
  | raised hk h => exact .raised hk ⟨h, (Res.keeps_raised_iff.mp hQ).2⟩
  | refused => exact .refused

/-- A command keeps what its start has where it keeps it once the checks have passed. -/
theorem checked_keeps_of_pass {pre : Bool} {inputs : List Space} {go : Unit → Res α} (hs : P s)
    (hg : pre = true → (∀ sp ∈ inputs, s.len sp ≤ capacity c sp) → (go ()).Keeps P) :
    (checked c pre inputs s go).Keeps P := by
  rcases checked_cases c pre inputs s go with hr | hr | ⟨hpre, hl, hr⟩ <;> rw [hr]
  · exact .refused
  · exact .raised (by decide) hs
  · exact hg hpre hl

theorem checked_keeps {pre : Bool} {inputs : List Space} {go : Unit → Res α} (hs : P s) (hg : (go ()).Keeps P) :
    (checked c pre inputs s go).Keeps P := checked_keeps_of_pass hs fun _ _ => hg

theorem lzLoop_keeps (hstep : ∀ t, P t → (lzStep c t).Keeps P) {fuel : Nat} (hs : P s) : (lzLoop c fuel s).Keeps P := by
  induction fuel generalizing s with
  | zero => exact .ok _ hs
  | succ fuel ih => exact Res.keeps_ite (fun _ => (hstep s hs).andThen fun _ _ ht => ih ht) fun _ => .ok _ hs

theorem decLoop_keeps (hstep : ∀ t, P t → (decStep c t).Keeps P) {fuel : Nat} (hs : P s) : (decLoop c fuel s).Keeps P := by
  induction fuel generalizing s with
  | zero => exact .ok _ hs
  | succ fuel ih => exact Res.keeps_ite (fun _ => (hstep s hs).andThen fun _ _ ht => ih ht) fun _ => .ok _ hs

end Sequences

/-! ### Shared operations -/

/-- Everything a flag read can do: where it ends `ok` it gives the flag bit at `BR.pos` and moves `BR.pos` alone. -/
theorem brRbit_cases (c : Config) (s : State) :
    brRbit c s = .refused ∨ brRbit c s = .raised .sizeOverflow s ∨ ∃ p, brRbit c s = .ok s.flagHere (s.setBrPos p) := by
  by_cases hp : s.brPos.toNat < 8 * s.len .flags
  · have := checked_cases c (s.isValid .br) [.flags] s fun _ => Res.ok s.flagHere (s.setBrPos (s.brPos + 1#32))
    rw [brRbit, if_pos hp]
    exact this.imp_right fun h => h.imp_right fun h => ⟨_, h.2.2⟩
  · have := checked_cases c (s.isValid .br) [.flags] s fun _ => Res.ok false s
    have hf : s.flagHere = false := if_neg hp
    rw [brRbit, if_neg hp, hf]
    exact this.imp_right fun h => h.imp_right fun h => ⟨s.brPos, h.2.2⟩

@[simp] theorem State.setBrPos_recordHere (p : Word) (s : State) : (s.setBrPos p).recordHere = s.recordHere := by
  simp [State.recordHere]

/-- The state after a byte is appended. -/
def State.appended (sp : Space) (b : Byte) (s : State) : State :=
  (s.writeBytes sp (s.len sp) [b]).setLen sp ((s.buf sp).len + 1#32)

/-- An append is accepted with room for a byte, and refused without. -/
theorem append_cases (c : Config) (sp : Space) (b : Byte) (s : State) :
    (s.len sp < capacity c sp ∧ append c sp b s = .ok () (s.appended sp b)) ∨
      (capacity c sp ≤ s.len sp ∧ append c sp b s = .refused) := by
  by_cases h : s.len sp < capacity c sp
  · exact .inl ⟨h, append_ok b h⟩
  · exact .inr ⟨by omega, append_full b (by omega)⟩

theorem State.setReState_setReState (x y : Word) (s : State) : (s.setReState x).setReState y = s.setReState y := rfl

/-- An append neither reads nor writes `RE.state`. -/
theorem append_setReState (c : Config) (sp : Space) (b : Byte) (s : State) (x : Word) :
    append c sp b (s.setReState x) = (append c sp b s).bind fun _ t => .ok () (t.setReState x) := by
  rcases append_cases c sp b s with ⟨h, hr⟩ | ⟨h, hr⟩ <;> rw [hr]
  · rw [append_ok b (by simpa using h)]
    cases sp <;> rfl
  · rw [append_full b (by simpa using h)]
    rfl

/-! ### What the updates of the units must keep -/

/-- A list of frequencies that `SS.COUNT` or `SS.LOAD` puts: a whole model, or the model of an empty input (10_state R27). -/
def IsModel (fs : List Nat) : Prop := WholeModel fs ∨ (fs.length = 256 ∧ ∀ f ∈ fs, f = 0)

/-- A model counted from an input is a whole one or the empty one (41_symbolstats R141, R147). -/
theorem normalise_isModel (n : Nat) (bs : List Byte) : IsModel (normalise n (tally bs)) := by
  by_cases hn : n = 0
  · right
    rw [normalise, if_pos hn]
    exact ⟨by rw [List.length_map, tally_length], by simp⟩
  · obtain ⟨hlen, hsum⟩ := normalise_sum n (tally bs) (by omega) (tally_length bs)
    exact .inl ⟨hlen, hsum⟩

theorem regionFreqs_isModel {s : State} (h : (regionFreqs s).sum = probScale) : IsModel (regionFreqs s) :=
  .inl ⟨by simp [regionFreqs], h⟩

/-- `P` is kept by every update of the units that writes fields `W` allows. Two updates are not free: one more bit goes into a
byte that has room for it, and `RE.state` takes the values `RE.PUT` gives it. -/
structure KeptBy (c : Config) (W : Field → Prop) (P : State → Prop) : Prop where
  appended {sp : Space} {b : Byte} {t : State} (hW : W (.len sp)) (hroom : t.len sp < capacity c sp) (ht : P t) :
    P (t.appended sp b)
  bit {b : Bool} {t : State} (hW : W .bwCur) (hW' : W .bwCnt) (h7 : t.bwCnt ≠ 7#3) (ht : P t) :
    P (t.setWriter (withBit t b) (t.bwCnt + 1#3))
  emptied {t : State} (hW : W .bwCur) (hW' : W .bwCnt) (ht : P t) : P (t.setWriter 0#8 0#3)
  setFlushed {b : Bool} {t : State} (hW : W .bwFlushed) (ht : P t) : P (t.setFlushed b)
  setBrPos {p : Word} {t : State} (hW : W .brPos) (ht : P t) : P (t.setBrPos p)
  setDecoder {x p : Word} {t : State} (hW : W .rdState) (hW' : W .rdPtr) (ht : P t) : P (t.setDecoder x p)
  setLzP {p : Word} {t : State} (hW : W .lzP) (ht : P t) : P (t.setLzP p)
  setDecMpos {p : Word} {t : State} (hW : W .decMpos) (ht : P t) : P (t.setDecMpos p)
  setHdr {h : Header} {t : State} (hW : W .hdr) (ht : P t) : P (t.setHdr h)
  setRaw {r : Vector Word 256} {t : State} (hW : W .raw) (ht : P t) : P (t.setRaw r)
  setResult {v : Word} {t : State} (hW : W .result) (ht : P t) : P (t.setResult v)
  setValid {u : ValidBit} {t : State} (hW : W .valid) (hu : u ≠ .ss ∧ u ≠ .re) (ht : P t) : P (t.setValid u)
  closeEncoder {t : State} (hW : W .valid) (ht : P t) : P (t.clearValid .re)
  putModel {fs : List Nat} {t : State} (hW : W .valid) (hf : W .freqs) (hc : W .cum) (hfs : IsModel fs) (ht : P t) :
    P (t.putModel fs)
  putSymbol {sym : Byte} {t : State} (hW : W .reState) (hre : t.isValid .re = true) (hss : t.isValid .ss = true)
    (hf : t.freq sym ≠ 0) (ht : P t) : P (t.setReState (encSym c (t.freq sym) (t.low sym) (t.reState, [])).1)

/-- `W` allows the fields that the rules of an instruction name. -/
def Allows (W : Field → Prop) (i : Instr) : Prop := ∀ f ∈ writesOf i, W f

theorem Allows.mono {W : Field → Prop} {i j : Instr} (h : Allows W i) (hji : ∀ f ∈ writesOf j, f ∈ writesOf i) : Allows W j :=
  fun f hf => h f (hji f hf)

section KeptBy
variable {c : Config} {W : Field → Prop} {P : State → Prop} {s : State} (hP : KeptBy c W P)
include hP

theorem KeptBy.append_keeps {sp : Space} {b : Byte} (hW : W (.len sp)) (hs : P s) : (append c sp b s).Keeps P := by
  rcases append_cases c sp b s with ⟨hl, hr⟩ | ⟨-, hr⟩ <;> rw [hr]
  · exact .ok _ (hP.appended hW hl hs)
  · exact .refused

theorem KeptBy.appendList_keeps {sp : Space} {bs : List Byte} (hW : W (.len sp)) (hs : P s) :
    (appendList c sp bs s).Keeps P := by
  induction bs generalizing s with
  | nil => exact .ok _ hs
  | cons b bs ih => exact (hP.append_keeps hW hs).andThen fun _ _ ht => ih ht

/-! #### BitWriter and BitReader -/

theorem KeptBy.bwWbit_keeps {b : Bool} (hW : Allows W .bwWbit) (hs : P s) : (bwWbit c b s).Keeps P := by
  have hcur := hW .bwCur (by decide)
  have hcnt := hW .bwCnt (by decide)
  rcases bwWbit_cases c b s with ⟨-, h7, hr⟩ | ⟨-, -, hl, hr⟩ | hr <;> rw [hr]
  · exact .ok _ (hP.bit hcur hcnt h7 hs)
  · exact .ok _ (hP.emptied hcur hcnt (hP.appended (hW (.len .flags) (by decide)) hl hs))
  · exact .refused

theorem KeptBy.bwBits_keeps {v : Word} {n : Nat} (hW : Allows W .bwWbit) (hs : P s) : (bwBits c v n s).Keeps P := by
  induction n generalizing s with
  | zero => exact .ok _ hs
  | succ n ih => exact (hP.bwWbit_keeps hW hs).andThen fun _ _ ht => ih ht

theorem KeptBy.bwWbits_keeps {v n : Word} (hW : Allows W .bwWbits) (hs : P s) : (bwWbits c v n s).Keeps P :=
  checked_keeps hs (hP.bwBits_keeps hW hs)

theorem KeptBy.bwFlush_keeps (hW : Allows W .bwFlush) (hs : P s) : (bwFlush c s).Keeps P := by
  have hflushed : ∀ t, P t → P (t.setFlushed true) := fun _ => hP.setFlushed (hW .bwFlushed (by decide))
  have hempty : ∀ t, P t → P (t.setWriter 0#8 0#3) := fun _ => hP.emptied (hW .bwCur (by decide)) (hW .bwCnt (by decide))
  refine Res.keeps_ite (fun _ => .ok _ (hflushed _ hs)) fun _ => ?_
  exact (hP.append_keeps (hW (.len .flags) (by decide)) hs).andThen fun _ _ ht => .ok _ (hflushed _ (hempty _ ht))

theorem KeptBy.brInit_keeps (hW : Allows W .brInit) (hs : P s) : (brInit c s).Keeps P :=
  checked_keeps hs (.ok _ (hP.setValid (hW .valid (by decide)) (by decide) (hP.setBrPos (hW .brPos (by decide)) hs)))

theorem KeptBy.brRbit_keeps (hW : W .brPos) (hs : P s) : (brRbit c s).Keeps P := by
  rcases brRbit_cases c s with hr | hr | ⟨p, hr⟩ <;> rw [hr]
  · exact .refused
  · exact .raised (by decide) hs
  · exact .ok _ (hP.setBrPos hW hs)

theorem KeptBy.brBits_keeps {n : Nat} {v : Word} (hW : W .brPos) (hs : P s) : (brBits c n v s).Keeps P := by
  induction n generalizing s v with
  | zero => exact .ok _ hs
  | succ n ih => exact (hP.brRbit_keeps hW hs).andThen fun _ _ ht => ih ht

theorem KeptBy.brRbits_keeps {n : Word} (hW : W .brPos) (hs : P s) : (brRbits c n s).Keeps P :=
  checked_keeps hs (hP.brBits_keeps hW hs)

/-! #### SymbolStats -/

theorem KeptBy.putModel_of_allows {fs : List Nat} (hW : Allows W .ssLoad) (hfs : IsModel fs) (hs : P s) : P (s.putModel fs) :=
  hP.putModel (hW .valid (by decide)) (hW .freqs (by decide)) (hW .cum (by decide)) hfs hs

theorem KeptBy.ssCount_keeps (hW : Allows W .ssCount) (hs : P s) : (ssCount c s).Keeps P :=
  checked_keeps hs (.ok _ (hP.putModel_of_allows (hW.mono (by decide)) (normalise_isModel _ _)
    (hP.setRaw (hW .raw (by decide)) hs)))

theorem KeptBy.ssLoad_keeps (hW : Allows W .ssLoad) (hs : P s) : (ssLoad c s).Keeps P := by
  refine checked_keeps hs ?_
  exact Res.keeps_ite (fun hsum => .ok _ (hP.putModel_of_allows hW (regionFreqs_isModel hsum) hs))
    fun _ => .raised (by decide) hs

/-! #### The rANS coder -/

/-- Renormalise-out refuses, or it appends to `RANS` and leaves in `RE.state` what `shiftOut` says. It is started with any value
`x` in `RE.state`, since `P` need not hold between two bytes. -/
theorem KeptBy.emitBytes_cases {bound fuel : Nat} {x : Word} (st : List Byte) (hW : W (.len .rans)) (hs : P s) :
    emitBytes c bound fuel (s.setReState x) = .refused ∨ ∃ u, P u ∧ u.withoutEncoder = s.withoutEncoder ∧
      u.reState = s.reState ∧
      emitBytes c bound fuel (s.setReState x) = .ok () (u.setReState (shiftOut bound fuel (x, st)).1) := by
  induction fuel generalizing s x st with
  | zero => exact .inr ⟨s, hs, rfl, rfl, rfl⟩
  | succ fuel ih =>
    by_cases hb : bound ≤ x.toNat
    · rw [emitBytes_step (by simpa using hb), append_setReState, shiftOut, if_pos hb]
      rcases append_cases c .rans ((s.setReState x).reState.extractLsb' 0 8) s with ⟨hl, hr⟩ | ⟨-, hr⟩ <;> rw [hr]
      · obtain ⟨hw, hx⟩ := append_rans_frame hr
        rw [Res.bind_ok, Res.bind_ok, State.setReState_reState, State.setReState_reState, State.setReState_setReState]
        rcases ih (x := x >>> 8) (x.extractLsb' 0 8 :: st) (hP.appended hW hl hs) with he | ⟨u, hu, hw', hx', he⟩
        · exact .inl he
        · exact .inr ⟨u, hu, hw'.trans hw, hx'.trans hx, he⟩
      · exact .inl rfl
    · rw [emitBytes_done (by simpa using hb), shiftOut, if_neg hb]
      exact .inr ⟨s, hs, rfl, rfl, rfl⟩

theorem KeptBy.rePut_keeps {sym : Byte} (hW : Allows W .rePut) (hs : P s) : (rePut c sym s).Keeps P := by
  refine checked_keeps_of_pass hs fun hv _ => ?_
  rw [Bool.and_eq_true] at hv
  refine Res.keeps_ite (fun _ => .raised (by decide) hs) fun hf => ?_
  rcases hP.emitBytes_cases (bound := s.freq sym * 2 ^ c.encBoundShift) (fuel := 4) (x := s.reState) []
    (hW (.len .rans) (by decide)) hs with he | ⟨u, hu, hw, hx, he⟩
  · rw [show emitBytes c _ 4 s = .refused from he]
    exact .refused
  · rw [show emitBytes c _ 4 s = _ from he, ← hx]
    have hput := hP.putSymbol (sym := sym) (hW .reState (by decide)) (by rw [isValid_of_withoutEncoder hw, hv.1])
      (by rw [isValid_of_withoutEncoder hw, hv.2]) (by rwa [freq_of_withoutEncoder hw]) hu
    rw [low_of_withoutEncoder hw, freq_of_withoutEncoder hw] at hput
    exact .ok _ hput

theorem KeptBy.putLiterals_keeps {n : Nat} (hW : Allows W .rePut) (hs : P s) : (putLiterals c n s).Keeps P := by
  induction n generalizing s with
  | zero => exact .ok _ hs
  | succ n ih => exact (hP.rePut_keeps hW hs).andThen fun _ _ ht => ih ht

theorem KeptBy.reFlush_keeps (hW : Allows W .reFlush) (hs : P s) : (reFlush c s).Keeps P :=
  checked_keeps hs <| (hP.appendList_keeps (hW (.len .rans) (by decide)) hs).andThen fun _ _ ht =>
    .ok _ (hP.closeEncoder (hW .valid (by decide)) ht)

theorem KeptBy.rdInit_keeps (hW : Allows W .rdInit) (hs : P s) : (rdInit c s).Keeps P :=
  checked_keeps hs (.ok _ (hP.setValid (hW .valid (by decide)) (by decide)
    (hP.setDecoder (hW .rdState (by decide)) (hW .rdPtr (by decide)) hs)))

theorem KeptBy.rdGet_keeps (hW : W .rdState) (hW' : W .rdPtr) (hs : P s) : (rdGet c s).Keeps P :=
  checked_keeps hs (.ok _ (hP.setDecoder hW hW' hs))

/-! #### The parser -/

theorem KeptBy.lzEmit_keeps {p : Nat} {best : Nat × Nat} (hW : Allows W .lzStep) (hs : P s) : (lzEmit c p best s).Keeps P := by
  have hbit : ∀ b t, P t → (bwWbit c b t).Keeps P := fun _ _ => hP.bwWbit_keeps (hW.mono (by decide))
  have hadvance : ∀ n t, P t → P (t.setLzP n) := fun _ _ => hP.setLzP (hW .lzP (by decide))
  refine Res.keeps_ite (fun _ => ?_) fun _ => ?_
  · exact (hP.appendList_keeps (hW (.len .mtch) (by decide)) hs).andThen fun _ _ ht =>
      (hbit _ _ ht).andThen fun _ _ hu => .ok _ (hadvance _ _ hu)
  · exact (hP.append_keeps (hW (.len .lit) (by decide)) hs).andThen fun _ _ ht =>
      (hbit _ _ ht).andThen fun _ _ hu => .ok _ (hadvance _ _ hu)

theorem KeptBy.lzStep_keeps (hW : Allows W .lzStep) (hs : P s) : (lzStep c s).Keeps P := by
  rw [lzStep_eq]
  exact checked_keeps hs (hP.lzEmit_keeps hW hs)

/-! #### The decode loop -/

theorem KeptBy.copyOut_keeps {n src : Nat} (hW : W (.len .out)) (hs : P s) : (copyOut c n src s).Keeps P := by
  induction n generalizing s src with
  | zero => exact .ok _ hs
  | succ n ih => exact (hP.append_keeps hW hs).andThen fun _ _ ht => ih ht

theorem KeptBy.litToken_keeps (hout : W (.len .out)) (hW : W .rdState ∧ W .rdPtr) (hs : P s) : (litToken c s).Keeps P :=
  (hP.rdGet_keeps hW.1 hW.2 hs).andThen fun _ _ ht => hP.append_keeps hout ht

theorem KeptBy.matchToken_keeps {dist : Half} {len : Byte} (hout : W (.len .out)) (hW : W .decMpos) (hs : P s) :
    (matchToken c dist len s).Keeps P :=
  Res.keeps_ite (fun _ => .raised (by decide) (hP.setDecMpos hW hs)) fun _ => hP.copyOut_keeps hout (hP.setDecMpos hW hs)

/-- `DEC.STEP` writes the decoder's registers where the token at the cursor is a literal, and `DEC.mpos` where it is a match. -/
theorem KeptBy.decStep_keeps (hpos : W .brPos) (hout : W (.len .out))
    (hlit : ∀ r, s.tokenHere = .ok (.lit, r) → W .rdState ∧ W .rdPtr)
    (hmtch : ∀ dist len r, s.tokenHere = .ok (.mtch dist len, r) → W .decMpos) (hs : P s) : (decStep c s).Keeps P := by
  refine checked_keeps hs ?_
  rcases brRbit_cases c s with hr | hr | ⟨p, hr⟩ <;> rw [hr]
  · exact .refused
  · exact .raised (by decide) hs
  · have ht := hP.setBrPos (p := p) hpos hs
    rw [Res.bind_ok, State.setBrPos_recordHere]
    split
    · exact hP.litToken_keeps hout (hlit _ ‹_›) ht
    · exact hP.matchToken_keeps hout (hmtch _ _ _ ‹_›) ht
    · exact .raised (by decide) ht

end KeptBy

end Sys2Proof.Machine


/-! PROOFS. The invariants of every step (spec 10_state R20 to R27): what a step can do, and that it keeps every property of the state
that the updates of the units keep. -/

namespace Sys2Proof.Machine

/-! ### What a step can do -/

/-- The step that finds a command is the command's `exec` after the issue (10_state R24). -/
theorem step_command {s : State} {v : Word} {rest : List HostAction} {i : Instr}
    (h : s.pending = .writeReg 0x00 v :: rest) (hi : decodeCmd (v.setWidth 8) = .ok i) :
    step s = exec i (State.issue v { s with pending := rest }) := by
  have hcmd : (State.issue v { s with pending := rest }).cmd = v.setWidth 8 := rfl
  simp only [step, fetch, h, if_true, hcmd, hi]

theorem step_reserved {s : State} {v : Word} {rest : List HostAction} {e : DecodeError}
    (h : s.pending = .writeReg 0x00 v :: rest) (he : decodeCmd (v.setWidth 8) = .error e) :
    step s = .next (State.issue v { s with pending := rest }).takeRefusal := by
  have hcmd : (State.issue v { s with pending := rest }).cmd = v.setWidth 8 := rfl
  simp only [step, fetch, h, if_true, hcmd, he, reservedCommand]

theorem step_idle {s : State} (h : s.pending = []) : step s = .next s := by
  simp only [step, fetch, h]

/-- Everything a step can do. -/
theorem step_cases (s : State) :
    step s = .next s ∨ ∃ rest, let u := { s with pending := rest }
      (∃ num v, step s = hostWriteReg num v u) ∨ (∃ sp addr b, step s = hostWriteByte sp addr b u) ∨
        (∃ v i, step s = exec i (u.issue v)) ∨ ∃ v, step s = .next (u.issue v).takeRefusal := by
  cases hp : s.pending with
  | nil => exact .inl (step_idle hp)
  | cons a rest =>
    refine .inr ⟨rest, ?_⟩
    cases a with
    | writeByte sp addr b => exact .inr (.inl ⟨_, _, _, step_writeByte hp⟩)
    | writeReg num v =>
      by_cases hn : num = 0
      · subst hn
        cases hd : decodeCmd (v.setWidth 8) with
        | ok i => exact .inr (.inr (.inl ⟨_, _, step_command hp hd⟩))
        | error e => exact .inr (.inr (.inr ⟨_, step_reserved hp hd⟩))
      · exact .inl ⟨_, _, step_writeReg hp hn⟩

/-- Everything an accepted host write of a register does: one of the nine RW registers takes the value, or nothing happens. -/
theorem hostWriteReg_cases {num : Nat} {v : Word} {s t : State} (h : hostWriteReg num v s = .next t) :
    t = { s with arg0 := v } ∨ t = { s with arg1 := v } ∨ (∃ sp, t = s.setLen sp v) ∨ t = s := by
  unfold hostWriteReg at h
  split at h
  case h_1 => cases h; exact .inl rfl
  case h_2 => cases h; exact .inr (.inl rfl)
  case h_10 =>
    split at h
    · cases h; exact .inr (.inr (.inr rfl))
    · cases h
  all_goals cases h; exact .inr (.inr (.inl ⟨_, rfl⟩))

theorem hostWriteByte_next {sp : Space} {addr : Nat} {b : Byte} {s t : State} (h : hostWriteByte sp addr b s = .next t) :
    t = s.writeBytes sp addr [b] := by
  unfold hostWriteByte at h
  split_ifs at h
  cases h
  rfl

/-! ### Invariants -/

/-- What the invariants read: the valid bits, the writer, the encoder's state, the model, the buffers and the parameters. -/
def State.watched (s : State) :
    BitVec 8 × BitVec 8 × Byte × BitVec 3 × Word × Vector Half 256 × Vector Half 257 × (Space → Buf) × Config :=
  (s.status, s.valid, s.bwCur, s.bwCnt, s.reState, s.freqs, s.cum, s.buf, s.cfg)

/-- A property of the state that every update of the block keeps, whatever state the update is made in. -/
structure Invariant (c : Config) (P : State → Prop) : Prop where
  congr {t u : State} (ht : P t) (h : u.watched = t.watched) : P u
  status {e : BitVec 4} {d : Bool} {t : State} (ht : P t) : P { t with status := mkStatus e d }
  setBuf {sp : Space} {b : Buf} {t : State} (hb : (t.buf sp).mem.wf = true → b.mem.wf = true) (ht : P t) : P (t.setBuf sp b)
  wipe {keep : Space → Bool} {t : State} (ht : P t) : P (t.wipe c keep)
  bit {b : Bool} {t : State} (h7 : t.bwCnt ≠ 7#3) (ht : P t) : P (t.setWriter (withBit t b) (t.bwCnt + 1#3))
  emptied {t : State} (ht : P t) : P (t.setWriter 0#8 0#3)
  setValid {u : ValidBit} {t : State} (hu : u ≠ .ss ∧ u ≠ .re) (ht : P t) : P (t.setValid u)
  openEncoder {t : State} (ht : P t) : P ((t.setReState (BitVec.ofNat 32 c.ransL)).setValid .re)
  closeEncoder {t : State} (ht : P t) : P (t.clearValid .re)
  putModel {fs : List Nat} {t : State} (hfs : IsModel fs) (ht : P t) : P (t.putModel fs)
  putSymbol {sym : Byte} {t : State} (hre : t.isValid .re = true) (hss : t.isValid .ss = true) (hf : t.freq sym ≠ 0)
    (ht : P t) : P (t.setReState (encSym c (t.freq sym) (t.low sym) (t.reState, [])).1)

section Invariant
variable {c : Config} {P : State → Prop} {s : State} (hP : Invariant c P)
include hP

theorem Invariant.setLen {sp : Space} {n : Word} (hs : P s) : P (s.setLen sp n) := hP.setBuf (b := { s.buf sp with len := n }) id hs

theorem Invariant.writeBytes {sp : Space} {a : Nat} {bs : List Byte} (hs : P s) : P (s.writeBytes sp a bs) :=
  hP.setBuf (Memory.setList_wf bs _ a) hs

theorem Invariant.load {sp : Space} {bs : List Byte} (hs : P s) : P (s.load sp bs) := hP.setLen (hP.writeBytes hs)

/-- The updates of the units keep an invariant. -/
theorem Invariant.keptBy : KeptBy c (fun _ => True) P where
  appended _ _ ht := hP.setLen (hP.writeBytes ht)
  bit _ _ h7 ht := hP.bit h7 ht
  emptied _ _ ht := hP.emptied ht
  setFlushed _ ht := hP.congr ht rfl
  setBrPos _ ht := hP.congr ht rfl
  setDecoder _ _ ht := hP.congr ht rfl
  setLzP _ ht := hP.congr ht rfl
  setDecMpos _ ht := hP.congr ht rfl
  setHdr _ ht := hP.congr ht rfl
  setRaw _ ht := hP.congr ht rfl
  setResult _ ht := hP.congr ht rfl
  setValid _ hu ht := hP.setValid hu ht
  closeEncoder _ ht := hP.closeEncoder ht
  putModel _ _ _ hfs ht := hP.putModel hfs ht
  putSymbol _ hre hss hf ht := hP.putSymbol hre hss hf ht

/-! #### The commands -/

theorem Invariant.after_bwInit (hs : P s) : P (bwInit s) :=
  hP.keptBy.setFlushed trivial (hP.emptied (hP.setLen hs))

theorem Invariant.after_lzInit (hs : P s) : P (lzInit s) :=
  hP.setValid (by decide) (hP.setLen (hP.setLen (hP.keptBy.setLzP trivial hs)))

theorem Invariant.after_reInit (hs : P s) : P (reInit c s) := by
  have h := hP.setLen (sp := .rans) (n := 0#32) (hP.openEncoder hs)
  exact hP.congr h rfl

theorem Invariant.ssStore_keeps (hs : P s) : (ssStore c s).Keeps P := checked_keeps hs (.ok _ (hP.load hs))

theorem Invariant.ctPack_keeps (hs : P s) : (ctPack c s).Keeps P :=
  checked_keeps hs (.ok _ (hP.setValid (by decide) (hP.load (hP.keptBy.setHdr trivial hs))))

theorem Invariant.ctUnpack_keeps (hs : P s) : (ctUnpack c s).Keeps P := by
  have hh : ∀ h, P (s.setHdr h) := fun h => hP.keptBy.setHdr trivial hs
  refine checked_keeps hs ?_
  refine Res.keeps_ite (fun _ => .raised (by decide) hs) fun _ => ?_
  refine Res.keeps_ite (fun _ => .raised (by decide) (hh _)) fun _ => ?_
  refine Res.keeps_ite (fun _ => .raised (by decide) (hh _)) fun _ => ?_
  refine Res.keeps_ite (fun _ => .raised (by decide) (hh _)) fun _ => ?_
  refine Res.keeps_ite (fun _ => .raised (by decide) (hh _)) fun _ => .ok _ ?_
  exact hP.setValid (by decide) (hP.load (hP.load (hP.load (hP.load (hh _)))))

theorem Invariant.lzParse_keeps (hs : P s) : (lzParse c s).Keeps P :=
  checked_keeps hs (lzLoop_keeps (fun _ ht => hP.keptBy.lzStep_keeps (fun _ _ => trivial) ht) (hP.after_lzInit hs))

theorem Invariant.decInit_keeps (hs : P s) : (decInit c s).Keeps P := by
  refine checked_keeps hs ?_
  exact Res.keeps_ite (fun _ => .raised (by decide) hs) fun _ =>
    .ok _ (hP.setValid (by decide) (hP.setLen (hP.keptBy.setDecMpos trivial hs)))

theorem Invariant.decStep_keeps (hs : P s) : (decStep c s).Keeps P :=
  hP.keptBy.decStep_keeps trivial trivial (fun _ _ => ⟨trivial, trivial⟩) (fun _ _ _ _ => trivial) hs

theorem Invariant.after_decEnd (hs : P s) : P (decEnd c s) := by
  unfold decEnd
  split
  · exact hP.setLen hs
  · exact hs

theorem Invariant.decRun_keeps (hs : P s) : (decRun c s).Keeps P :=
  checked_keeps hs ((decLoop_keeps (fun _ ht => hP.decStep_keeps ht) hs).andThen fun _ _ ht => .ok _ (hP.after_decEnd ht))

theorem Invariant.compress_keeps (hs : P s) : (compress c s).Keeps P := by
  have hany : ∀ i, Allows (fun _ => True) i := fun _ _ _ => trivial
  have hr : P (s.reinit c .inp) := hP.wipe hs
  have hU := hP.keptBy
  refine checked_keeps hs ?_
  exact Res.keeps_ite (fun _ => .raised (by decide) hr) fun _ =>
    (hU.ssCount_keeps (hany _) hr).andThen fun _ _ h1 =>
    (hP.lzParse_keeps (hP.after_bwInit h1)).andThen fun _ _ h2 =>
    (hU.bwFlush_keeps (hany _) h2).andThen fun _ _ h3 =>
    (hU.putLiterals_keeps (hany _) (hP.after_reInit h3)).andThen fun _ _ h4 =>
    (hU.reFlush_keeps (hany _) h4).andThen fun _ _ h5 =>
    (hP.ssStore_keeps h5).andThen fun _ _ h6 => hP.ctPack_keeps h6

theorem Invariant.decompress_keeps (hs : P s) : (decompress c s).Keeps P := by
  have hany : ∀ i, Allows (fun _ => True) i := fun _ _ _ => trivial
  have hU := hP.keptBy
  have hr : P (s.reinit c .art) := hP.wipe hs
  exact checked_keeps hs <|
    (hP.ctUnpack_keeps hr).andThen fun _ _ h1 =>
    (hU.ssLoad_keeps (hany _) h1).andThen fun _ _ h2 =>
    (hU.rdInit_keeps (hany _) h2).andThen fun _ _ h3 =>
    (hU.brInit_keeps (hany _) h3).andThen fun _ _ h4 =>
    (hP.decInit_keeps h4).andThen fun _ _ h5 => hP.decRun_keeps h5

/-- The body of every command keeps an invariant. -/
theorem Invariant.bodyOf_keeps (i : Instr) (hc : s.cfg = c) (hs : P s) : (bodyOf i s).Keeps P := by
  subst hc
  have hany : ∀ i, Allows (fun _ => True) i := fun _ _ _ => trivial
  have hU := hP.keptBy
  have hresult : ∀ v t, P t → (setResult v t).Keeps P := fun _ _ ht => .ok _ (hU.setResult trivial ht)
  cases i with
  | lit => exact Res.keeps_ite (fun _ => hP.decStep_keeps hs) fun _ => .refused
  | matchTok dist len => exact Res.keeps_ite (fun _ => hP.decStep_keeps hs) fun _ => .refused
  | reset => exact .refused
  | compress => exact hP.compress_keeps hs
  | decompress => exact hP.decompress_keeps hs
  | bwInit => exact .ok _ (hP.after_bwInit hs)
  | bwWbit => exact hU.bwWbit_keeps (hany _) hs
  | bwWbits => exact hU.bwWbits_keeps (hany _) hs
  | bwFlush => exact hU.bwFlush_keeps (hany _) hs
  | bwBytes => exact hresult _ _ hs
  | brInit => exact hU.brInit_keeps (hany _) hs
  | brRbit => exact (hU.brRbit_keeps trivial hs).andThen fun _ _ ht => hresult _ _ ht
  | brRbits => exact (hU.brRbits_keeps trivial hs).andThen fun _ _ ht => hresult _ _ ht
  | ssCount => exact hU.ssCount_keeps (hany _) hs
  | ssStore => exact hP.ssStore_keeps hs
  | ssLoad => exact hU.ssLoad_keeps (hany _) hs
  | reInit => exact .ok _ (hP.after_reInit hs)
  | rePut => exact hU.rePut_keeps (hany _) hs
  | reFlush => exact hU.reFlush_keeps (hany _) hs
  | rdInit => exact hU.rdInit_keeps (hany _) hs
  | rdGet => exact (hU.rdGet_keeps trivial trivial hs).andThen fun _ _ ht => hresult _ _ ht
  | lzInit => exact .ok _ (hP.after_lzInit hs)
  | lzStep => exact hU.lzStep_keeps (hany _) hs
  | lzParse => exact hP.lzParse_keeps hs
  | ctPack => exact hP.ctPack_keeps hs
  | ctUnpack => exact hP.ctUnpack_keeps hs
  | decInit => exact hP.decInit_keeps hs
  | decStep => exact hP.decStep_keeps hs
  | decRun => exact hP.decRun_keeps hs

/-! #### The end of a command, and a step -/

theorem Invariant.after_recordErr (k : ErrKind) (hs : P s) : P (s.recordErr k) := by
  unfold State.recordErr
  split
  · exact hP.status hs
  · exact hs

theorem Invariant.after_takeFault (k : ErrKind) (hs : P s) : P (s.takeFault k) := hP.status (hP.after_recordErr k hs)

theorem Invariant.after_takeRefusal (hs : P s) : P s.takeRefusal := hP.status (hP.after_recordErr .notReady hs)

theorem Invariant.after_finish {r : Res Unit} (hs : P s) (hr : r.Keeps P) : P (finish s r) := by
  cases hr with
  | ok a h => exact hP.status h
  | raised _ h => exact hP.after_takeFault _ h
  | refused => exact hP.after_takeRefusal hs

theorem Invariant.after_resetAll (hs : P s) : P (s.resetAll c) :=
  hP.congr (hP.status (e := 0#4) (d := false) (hP.wipe (keep := fun _ => false) hs)) rfl

theorem Invariant.after_exec {i : Instr} {t : State} (h : exec i s = .next t) (hc : s.cfg = c) (hs : P s) : P t := by
  by_cases hi : i = .reset
  · subst hi
    cases h
    rw [hc]
    exact hP.after_resetAll hs
  · rw [exec_eq_command hi, command] at h
    cases h
    split
    · exact hP.after_finish hs (hP.bodyOf_keeps i hc hs)
    · exact hP.after_takeRefusal hs

theorem Invariant.after_hostWriteReg {num : Nat} {v : Word} {t : State} (h : hostWriteReg num v s = .next t) (hs : P s) : P t := by
  rcases hostWriteReg_cases h with rfl | rfl | ⟨sp, rfl⟩ | rfl
  · exact hP.congr hs rfl
  · exact hP.congr hs rfl
  · exact hP.setLen hs
  · exact hs

/-- Every step keeps an invariant. -/
theorem Invariant.after_step {t : State} (hc : s.cfg = c) (h : step s = .next t) (hs : P s) : P t := by
  have hpend : ∀ rest, P { s with pending := rest } := fun _ => hP.congr hs rfl
  have hissue : ∀ rest v, P (State.issue v { s with pending := rest }) := fun rest v =>
    hP.status (hP.congr hs rfl)
  rcases step_cases s with hr | ⟨rest, ⟨num, v, hr⟩ | ⟨sp, addr, b, hr⟩ | ⟨v, i, hr⟩ | ⟨v, hr⟩⟩ <;> rw [hr] at h
  · cases h
    exact hs
  · exact hP.after_hostWriteReg h (hpend rest)
  · rw [hostWriteByte_next h]
    exact hP.writeBytes (hpend rest)
  · exact hP.after_exec h hc (hissue rest v)
  · cases h
    exact hP.after_takeRefusal (hissue rest v)

end Invariant

end Sys2Proof.Machine


/-! PROOFS. The four invariants of the state (spec 10_state R23, R24, R25, R27; 42_rans R176): each holds at reset and is kept by every
update of the units, so by every step (`Invariant.after_step`). -/

namespace Sys2Proof.Machine

/-! ### Memory in canonical form -/

theorem memWf_invariant (c : Config) : Invariant c State.MemWf where
  congr {t u} ht h := by
    simp only [State.watched, Prod.mk.injEq] at h
    obtain ⟨-, -, -, -, -, -, -, hbuf, -⟩ := h
    rw [State.MemWf, hbuf]
    exact ht
  status ht := ht
  setBuf hb ht := State.setBuf_wf _ _ _ (hb (ht _)) ht
  wipe ht := State.wipe_wf _ _ _ ht
  bit _ ht := ht
  emptied ht := ht
  setValid _ ht := ht
  openEncoder ht := ht
  closeEncoder ht := ht
  putModel _ ht := ht
  putSymbol _ _ _ ht := ht

/-- Settles O52: the canonical form is kept by every update of a buffer, and by a buffer's renewal. -/
theorem stepKeepsMemoryCanonical : Obligations.StepKeepsMemoryCanonical :=
  fun s _ h hs => (memWf_invariant s.cfg).after_step rfl h hs

/-! ### Reserved bits and the writer's byte -/

theorem State.setValid_reservedZero (u : ValidBit) {s : State} (h : s.ReservedZero) : (s.setValid u).ReservedZero :=
  ⟨h.1, (State.setValid_reserved u s).trans h.2⟩

theorem State.clearValid_reservedZero (u : ValidBit) {s : State} (h : s.ReservedZero) : (s.clearValid u).ReservedZero :=
  ⟨h.1, (State.clearValid_reserved u s).trans h.2⟩

/-- One more bit in a byte with room leaves the places below it 0 (40_bitio R121, R123). -/
theorem State.writerInv_withBit {s : State} (h : s.WriterInv) (h7 : s.bwCnt ≠ 7#3) (b : Bool) :
    (s.setWriter (withBit s b) (s.bwCnt + 1#3)).WriterInv := by
  have hcnt := s.bwCnt.isLt
  have hne : s.bwCnt.toNat ≠ 7 := fun hh => h7 (BitVec.eq_of_toNat_eq hh)
  have hsucc : (s.bwCnt + 1#3).toNat = s.bwCnt.toNat + 1 := by
    rw [BitVec.toNat_add]
    exact Nat.mod_eq_of_lt (by simp; omega)
  intro j hj
  rw [State.setWriter_bwCnt, hsucc] at hj
  rw [State.setWriter_bwCur, withBit_bit h, if_neg (by omega)]
  exact h j (by omega)

theorem writerInv_of_empty {s : State} (h : s.bwCur = 0#8) : s.WriterInv := by
  intro j _
  rw [h]
  exact BitVec.getLsbD_zero

theorem reservedAndWriter_invariant (c : Config) : Invariant c fun s => s.ReservedZero ∧ s.WriterInv where
  congr {t u} ht h := by
    simp only [State.watched, Prod.mk.injEq] at h
    obtain ⟨hstatus, hvalid, hcur, hcnt, -⟩ := h
    rw [State.ReservedZero, State.WriterInv, hstatus, hvalid, hcur, hcnt]
    exact ht
  status ht := ⟨⟨(mkStatus_fields _ _).2.2, ht.1.2⟩, ht.2⟩
  setBuf {sp _ _} _ ht := by cases sp <;> exact ht
  wipe ht := ⟨⟨ht.1.1, BitVec.getLsbD_zero⟩, writerInv_of_empty rfl⟩
  bit h7 ht := ⟨ht.1, State.writerInv_withBit ht.2 h7 _⟩
  emptied ht := ⟨ht.1, writerInv_of_empty rfl⟩
  setValid _ ht := ⟨State.setValid_reservedZero _ ht.1, ht.2⟩
  openEncoder ht := ⟨State.setValid_reservedZero _ ht.1, ht.2⟩
  closeEncoder ht := ⟨State.clearValid_reservedZero _ ht.1, ht.2⟩
  putModel _ ht := ⟨State.setValid_reservedZero _ ht.1, ht.2⟩
  putSymbol _ _ _ ht := ht

/-- Settles O53: `STATUS` is only written whole with its reserved bits 0, no update of a valid bit touches bit 7, and a bit written
goes into the highest free place of `BW.cur`. -/
theorem stepKeepsReservedAndWriter : Obligations.StepKeepsReservedAndWriter :=
  fun s _ h hs => (reservedAndWriter_invariant s.cfg).after_step rfl h hs

/-! ### The model and the encoder's bounds -/

/-- The tables of the model of an empty input are all 0 (10_state R27). -/
theorem State.HasTables.modelEmpty {s : State} {fs : List Nat} (h : s.HasTables fs) (hlen : fs.length = 256)
    (hzero : ∀ f ∈ fs, f = 0) : s.ModelEmpty := by
  refine ⟨fun sym => ?_, fun i hi => ?_⟩
  · have hsym : sym.toNat < fs.length := by rw [hlen]; exact sym.isLt
    rw [State.freq, h.freqs, tabulate_getElem?, if_pos sym.isLt, List.getD_eq_getElem _ _ hsym, hzero _ (List.getElem_mem hsym)]
    rfl
  · have hsum : (fs.take i).sum = 0 := List.sum_eq_zero fun f hf => hzero f (List.mem_of_mem_take hf)
    rw [State.cumAt, h.cum, tabulate_getElem?, if_pos (by omega), prefixSums_getD _ _ _ (by omega), hsum]
    rfl

theorem putModel_modelInv {fs : List Nat} (h : IsModel fs) (s : State) : (s.putModel fs).ModelInv := by
  intro _
  rcases h with hw | ⟨hlen, hzero⟩
  · exact .inl ((putModel_hasTables fs s).modelOk hw)
  · exact .inr ((putModel_hasTables fs s).modelEmpty hlen hzero)

/-- A byte shifted out leaves at least `m` of a state at the bound `256 * m` or above. -/
theorem le_shiftOut_of_le {l m fuel : Nat} {d : Word × List Byte} (hlm : l ≤ m) (h : l ≤ d.1.toNat) :
    l ≤ (shiftOut (256 * m) fuel d).1.toNat := by
  induction fuel generalizing d with
  | zero => exact h
  | succ fuel ih =>
    rw [shiftOut]
    split
    · exact ih (by rw [toNat_shiftRight_eight]; omega)
    · exact h

/-- With the document's constants `RE.PUT` keeps the state between `RANS_L` and `2^31` (42_rans R176). -/
theorem encSym_documented {c : Config} (hc : c.Documented) {f low : Nat} (hf : 1 ≤ f) (hl : low + f ≤ probScale)
    {d : Word × List Byte} (h1 : c.ransL ≤ d.1.toNat) (h2 : d.1.toNat < 2 ^ (c.encBoundShift + probBits)) :
    c.ransL ≤ (encSym c f low d).1.toNat ∧ (encSym c f low d).1.toNat < 2 ^ (c.encBoundShift + probBits) := by
  have hscale : probScale = 4096 := rfl
  rw [Nat.pow_add, show 2 ^ probBits = probScale from rfl] at h2 ⊢
  have hlt := (encSym_bounds hf hl h2).1
  refine ⟨?_, hlt⟩
  obtain ⟨hL, hS⟩ := hc
  -- `RANS_L` is 16 times the scale, and the state above its slot is at least 16
  have hlow : 16 * f ≤ (shiftOut (256 * (f * 2 ^ 11)) 4 d).1.toNat := le_shiftOut_of_le (by omega) (by omega)
  have hbound : f * 2 ^ c.encBoundShift = 256 * (f * 2 ^ 11) := by rw [hS]; omega
  have hfit : encUpdate (shiftOut (f * 2 ^ c.encBoundShift) 4 d).1.toNat f low < 2 ^ 31 := by
    have hx : d.1.toNat < 256 ^ 2 * (f * 2 ^ c.encBoundShift) := by rw [hS] at h2 ⊢; omega
    have := encUpdate_lt hf hl (shiftOut_bounds (fuel := 4) hx (by decide)).1
    rw [hS] at this ⊢
    exact this
  rw [encSym, BitVec.toNat_ofNat, Nat.mod_eq_of_lt (by omega), hbound, encUpdate, hL, Nat.add_assoc]
  have hq : 16 ≤ (shiftOut (256 * (f * 2 ^ 11)) 4 d).1.toNat / f := (Nat.le_div_iff_mul_le hf).mpr hlow
  exact (Nat.mul_le_mul_right probScale hq).trans (Nat.le_add_right _ _)

/-- The model and the encoder's bounds, for given parameters. -/
def ModelAndEncoder (c : Config) (s : State) : Prop := s.cfg = c ∧ s.ModelInv ∧ s.EncoderInv

theorem State.ModelInv.congr {s t : State} (h : s.ModelInv) (hv : t.isValid .ss = s.isValid .ss) (hf : t.freqs = s.freqs)
    (hc : t.cum = s.cum) : t.ModelInv := by
  have hfreq : t.freq = s.freq := by funext x; rw [State.freq, State.freq, hf]
  have hcum : t.cumAt = s.cumAt := by funext i; rw [State.cumAt, State.cumAt, hc]
  rw [State.ModelInv, State.ModelOk, State.ModelEmpty, hv, hfreq, hcum]
  exact h

theorem State.EncoderInv.congr {s t : State} (h : s.EncoderInv) (hv : t.isValid .re = s.isValid .re)
    (hx : t.reState = s.reState) (hc : t.cfg = s.cfg) : t.EncoderInv := by
  rw [State.EncoderInv, hv, hx, hc]
  exact h

theorem ModelAndEncoder.congr {c : Config} {s t : State} (h : ModelAndEncoder c s)
    (hv : t.isValid .ss = s.isValid .ss ∧ t.isValid .re = s.isValid .re) (hf : t.freqs = s.freqs) (hm : t.cum = s.cum)
    (hx : t.reState = s.reState) (hc : t.cfg = s.cfg) : ModelAndEncoder c t :=
  ⟨hc.trans h.1, h.2.1.congr hv.1 hf hm, h.2.2.congr hv.2 hx hc⟩

theorem modelAndEncoder_invariant {c : Config} (hc : c.Documented) : Invariant c (ModelAndEncoder c) where
  congr {t u} ht h := by
    simp only [State.watched, Prod.mk.injEq] at h
    obtain ⟨-, hvalid, -, -, hx, hf, hm, -, hcfg⟩ := h
    exact ht.congr ⟨isValid_of_valid hvalid _, isValid_of_valid hvalid _⟩ hf hm hx hcfg
  status ht := ht
  setBuf {sp _ _} _ ht := by cases sp <;> exact ht
  wipe ht := ⟨ht.1, fun h => absurd h (by simp [State.wipe, State.isValid]), fun h => absurd h (by simp [State.wipe, State.isValid])⟩
  bit _ ht := ht
  emptied ht := ht
  setValid {u _} hu ht := ht.congr ⟨by simp [State.setValid_isValid, hu.1], by simp [State.setValid_isValid, hu.2]⟩ rfl rfl rfl rfl
  openEncoder {t} ht := by
    refine ⟨ht.1, ht.2.1.congr (by simp [State.setValid_isValid]) rfl rfl, fun _ => ?_⟩
    obtain ⟨hcfg, -⟩ := ht
    rw [State.setValid_cfg, State.setReState_cfg, State.setValid_reState, State.setReState_reState, hcfg, hc.1, hc.2]
    decide
  closeEncoder ht := ⟨ht.1, ht.2.1.congr (by simp [State.clearValid_isValid]) rfl rfl,
    fun h => absurd h (by simp [State.clearValid_isValid])⟩
  putModel {fs t} hfs ht := ⟨ht.1, putModel_modelInv hfs t, ht.2.2.congr (by simp [putModel_isValid]) rfl rfl⟩
  putSymbol {sym t} hre hss hf ht := by
    obtain ⟨hcfg, hmodel, henc⟩ := ht
    rcases hmodel hss with hok | hempty
    · refine ⟨hcfg, hmodel, fun _ => ?_⟩
      obtain ⟨h1, h2⟩ := henc hre
      rw [hcfg] at h1 h2
      have := encSym_documented hc (Nat.pos_of_ne_zero hf) (hok.freq_le sym) (d := (t.reState, [])) h1 h2
      rwa [State.setReState_cfg, State.setReState_reState, hcfg]
    · exact absurd (hempty.1 sym) hf

/-- Settles O54: only `SS.COUNT` and `SS.LOAD` put a model, a whole or an empty one (`IsModel`), and only `RE.INIT` and `RE.PUT` write
the state of an open encoder, between its bounds (`encSym_documented`). -/
theorem stepKeepsModelAndEncoder : Obligations.StepKeepsModelAndEncoder :=
  fun _ _ h hc hs => ((modelAndEncoder_invariant hc).after_step rfl h ⟨rfl, hs⟩).2

/-- Settles O51: after reset no memory lists a cell, `STATUS`, `VALID` and `BW.cur` are 0, and no unit is valid. -/
theorem invariantsAtReset : Obligations.InvariantsAtReset :=
  ⟨State.reset_wf, ⟨rfl, rfl⟩, writerInv_of_empty rfl, fun h => absurd h (by decide), fun h => absurd h (by decide)⟩

/-- Settles O5: a step that finds a command runs it after the issue (`step_command`); with nothing pending it is idle. -/
theorem stepRunsTheCommand : Obligations.StepRunsTheCommand :=
  ⟨fun _ _ _ _ hp hi _ => step_command hp hi, fun _ => step_idle⟩

end Sys2Proof.Machine


/-! PROOFS. Frames (spec 10_state R22, R32): which registers each update may write, and which bytes a command leaves. -/

namespace Sys2Proof.Machine

/-! ### What one update leaves -/

theorem Field.Same.trans {f : Field} {s t u : State} (h : f.Same s t) (h' : f.Same t u) : f.Same s u := by
  cases f <;> exact Eq.trans h' h

theorem Unchanged.refl (but : List Field) (s : State) : Unchanged but s s := by
  intro f _
  cases f <;> rfl

theorem Unchanged.trans {but : List Field} {s t u : State} (h : Unchanged but s t) (h' : Unchanged but t u) :
    Unchanged but s u := fun f hf => (h f hf).trans (h' f hf)

theorem Unchanged.mono {but but' : List Field} {s t : State} (h : Unchanged but s t) (hb : ∀ f ∈ but, f ∈ but') :
    Unchanged but' s t := fun f hf => h f fun hf' => hf (hb f hf')

section Updates
variable {but : List Field} (s : State)

theorem unchanged_status (h : Field.status ∈ but) (v : BitVec 8) : Unchanged but s { s with status := v } := by
  intro f hf
  cases f with
  | status => exact absurd h hf
  | _ => rfl

theorem unchanged_valid (h : Field.valid ∈ but) (v : BitVec 8) : Unchanged but s { s with valid := v } := by
  intro f hf
  cases f with
  | valid => exact absurd h hf
  | _ => rfl

theorem unchanged_setWriter (h : Field.bwCur ∈ but) (h' : Field.bwCnt ∈ but) (cur : Byte) (cnt : BitVec 3) :
    Unchanged but s (s.setWriter cur cnt) := by
  intro f hf
  cases f with
  | bwCur => exact absurd h hf
  | bwCnt => exact absurd h' hf
  | _ => rfl

theorem unchanged_setFlushed (h : Field.bwFlushed ∈ but) (b : Bool) : Unchanged but s (s.setFlushed b) := by
  intro f hf
  cases f with
  | bwFlushed => exact absurd h hf
  | _ => rfl

theorem unchanged_setBrPos (h : Field.brPos ∈ but) (p : Word) : Unchanged but s (s.setBrPos p) := by
  intro f hf
  cases f with
  | brPos => exact absurd h hf
  | _ => rfl

theorem unchanged_setReState (h : Field.reState ∈ but) (x : Word) : Unchanged but s (s.setReState x) := by
  intro f hf
  cases f with
  | reState => exact absurd h hf
  | _ => rfl

theorem unchanged_setDecoder (h : Field.rdState ∈ but) (h' : Field.rdPtr ∈ but) (x p : Word) :
    Unchanged but s (s.setDecoder x p) := by
  intro f hf
  cases f with
  | rdState => exact absurd h hf
  | rdPtr => exact absurd h' hf
  | _ => rfl

theorem unchanged_setLzP (h : Field.lzP ∈ but) (p : Word) : Unchanged but s (s.setLzP p) := by
  intro f hf
  cases f with
  | lzP => exact absurd h hf
  | _ => rfl

theorem unchanged_setDecMpos (h : Field.decMpos ∈ but) (p : Word) : Unchanged but s (s.setDecMpos p) := by
  intro f hf
  cases f with
  | decMpos => exact absurd h hf
  | _ => rfl

theorem unchanged_setHdr (h : Field.hdr ∈ but) (v : Header) : Unchanged but s (s.setHdr v) := by
  intro f hf
  cases f with
  | hdr => exact absurd h hf
  | _ => rfl

theorem unchanged_setRaw (h : Field.raw ∈ but) (r : Vector Word 256) : Unchanged but s (s.setRaw r) := by
  intro f hf
  cases f with
  | raw => exact absurd h hf
  | _ => rfl

theorem unchanged_setTables (h : Field.freqs ∈ but) (h' : Field.cum ∈ but) (f : Vector Half 256) (c : Vector Half 257) :
    Unchanged but s (s.setTables f c) := by
  intro g hg
  cases g with
  | freqs => exact absurd h hg
  | cum => exact absurd h' hg
  | _ => rfl

theorem unchanged_setResult (h : Field.result ∈ but) (v : Word) : Unchanged but s (s.setResult v) := by
  intro f hf
  cases f with
  | result => exact absurd h hf
  | _ => rfl

theorem unchanged_pending (h : Field.pending ∈ but) (as : List HostAction) : Unchanged but s { s with pending := as } := by
  intro f hf
  cases f with
  | pending => exact absurd h hf
  | _ => rfl

/-- A buffer put is a length register written, or only bytes. -/
theorem unchanged_setBuf {sp : Space} {b : Buf} (h : Field.len sp ∈ but ∨ b.len = (s.buf sp).len) :
    Unchanged but s (s.setBuf sp b) := by
  intro f hf
  cases f with
  | len x =>
    by_cases hx : x = sp
    · subst hx
      rw [Field.Same, State.setBuf_buf_same]
      exact h.resolve_left hf
    · rw [Field.Same, State.setBuf_buf_ne hx]
  | _ => cases sp <;> rfl

theorem unchanged_setLen {sp : Space} (h : Field.len sp ∈ but) (n : Word) : Unchanged but s (s.setLen sp n) :=
  unchanged_setBuf s (.inl h)

theorem unchanged_writeBytes (sp : Space) (a : Nat) (bs : List Byte) : Unchanged but s (s.writeBytes sp a bs) :=
  unchanged_setBuf s (.inr rfl)

theorem unchanged_load {sp : Space} (h : Field.len sp ∈ but) (bs : List Byte) : Unchanged but s (s.load sp bs) :=
  (unchanged_writeBytes s sp 0 bs).trans (unchanged_setLen (s.writeBytes sp 0 bs) h _)

end Updates

/-! ### What a command leaves -/

/-- From `s` to `t` the fields are kept that the rules of `i` do not name, and the bytes that do not stand between the place from
which `i` stores and the length register. -/
structure Framed (i : Instr) (s t : State) : Prop where
  fields : Unchanged (writesOf i) s t
  start {sp : Space} {n : Nat} (h : storesFrom i s sp = some n) : n ≤ t.len sp
  bytes {sp : Space} {a : Nat} (h : ∀ n, storesFrom i s sp = some n → a < n ∨ t.len sp ≤ a) : t.byte sp a = s.byte sp a

theorem storesFrom_le {i : Instr} {s : State} {sp : Space} {n : Nat} (h : storesFrom i s sp = some n) : n ≤ s.len sp := by
  unfold storesFrom at h
  split at h <;> cases h <;> simp

theorem status_mem_writesOf (i : Instr) : Field.status ∈ writesOf i := by
  cases i <;> simp [writesOf]

theorem Framed.refl (i : Instr) (s : State) : Framed i s s where
  fields := Unchanged.refl _ s
  start := storesFrom_le
  bytes _ := rfl

section Framed
variable {i : Instr} {s t : State} (h : Framed i s t)
include h

/-- An update that touches no buffer. -/
theorem Framed.update {u : State} (hu : Unchanged (writesOf i) t u) (hb : u.buf = t.buf) : Framed i s u where
  fields := h.fields.trans hu
  start hn := by rw [State.len_congr (congrFun hb _)]; exact h.start hn
  bytes {sp a} hn := by
    rw [State.len_congr (congrFun hb _)] at hn
    rw [State.byte_congr (congrFun hb _)]
    exact h.bytes hn

theorem Framed.status (v : BitVec 8) : Framed i s { t with status := v } :=
  h.update (unchanged_status t (status_mem_writesOf i) v) rfl

theorem Framed.setValid (hv : Field.valid ∈ writesOf i) (u : ValidBit) : Framed i s (t.setValid u) :=
  h.update (unchanged_valid t hv _) rfl

/-- A length register written in a buffer that the command stores nothing in. -/
theorem Framed.setLen {sp : Space} (hl : Field.len sp ∈ writesOf i) (hn : storesFrom i s sp = none) (n : Word) :
    Framed i s (t.setLen sp n) where
  fields := h.fields.trans (unchanged_setLen t hl n)
  start {x m} hm := by
    have hx : x ≠ sp := by rintro rfl; simp [hn] at hm
    rw [State.setLen_len_ne hx]
    exact h.start hm
  bytes {x a} ha := by
    rw [State.setLen_byte]
    refine h.bytes fun m hm => ?_
    have hx : x ≠ sp := by rintro rfl; simp [hn] at hm
    simpa [hx] using ha m hm

/-- A byte appended to a buffer that the command stores in. -/
theorem Framed.appended (hc : s.cfg.Bounded) {sp : Space} {n : Nat} (hl : Field.len sp ∈ writesOf i)
    (hn : storesFrom i s sp = some n) (hroom : t.len sp < capacity s.cfg sp) (b : Byte) : Framed i s (t.appended sp b) := by
  obtain ⟨-, hlen, -, hkeep, hother⟩ := append_spec hc (append_ok b hroom)
  change (t.appended sp b).len sp = _ at hlen
  change ∀ a, _ → (t.appended sp b).byte sp a = _ at hkeep
  change ∀ x, _ → (t.appended sp b).len x = _ ∧ ∀ a, (t.appended sp b).byte x a = _ at hother
  have hle := h.start hn
  refine ⟨h.fields.trans ?_, fun {x m} hm => ?_, fun {x a} ha => ?_⟩
  · exact (unchanged_writeBytes t sp _ [b]).trans (unchanged_setLen _ hl _)
  · have := h.start hm
    by_cases hx : x = sp
    · subst hx; omega
    · rwa [(hother x hx).1]
  · by_cases hx : x = sp
    · subst hx
      have := ha n hn
      rw [hkeep a (by omega)]
      refine h.bytes fun m hm => ?_
      have := ha m hm
      omega
    · rw [(hother x hx).2]
      exact h.bytes fun m hm => by rw [← (hother x hx).1]; exact ha m hm

/-- A region loaded from address 0 on into a buffer not stored in before. -/
theorem Framed.load {sp : Space} {bs : List Byte} (hl : Field.len sp ∈ writesOf i) (hn : storesFrom i s sp = some 0)
    (hkept : ∀ a, t.byte sp a = s.byte sp a) (hlen : bs.length < 2 ^ 32) : Framed i s (t.load sp bs) where
  fields := h.fields.trans (unchanged_load t hl bs)
  start {x m} hm := by
    by_cases hx : x = sp
    · subst hx
      obtain rfl : m = 0 := by rw [hn] at hm; cases hm; rfl
      exact Nat.zero_le _
    · rw [State.load_len_ne hx]
      exact h.start hm
  bytes {x a} ha := by
    by_cases hx : x = sp
    · subst hx
      have := ha 0 hn
      rw [State.load_len_same, Nat.mod_eq_of_lt hlen] at this
      rw [State.load_byte_same, dif_neg (by omega), hkept]
    · rw [State.load_byte_ne hx]
      exact h.bytes fun m hm => by simpa [hx] using ha m hm

end Framed

/-- The updates of the units keep the frame of an instruction where every length register it may write belongs to a buffer it
stores in. -/
theorem framed_keptBy {i : Instr} {s : State}
    (hl : ∀ sp, Field.len sp ∈ writesOf i → s.cfg.Bounded ∧ ∃ n, storesFrom i s sp = some n) :
    KeptBy s.cfg (· ∈ writesOf i) (Framed i s) where
  appended hW hroom ht := by
    obtain ⟨hc, n, hn⟩ := hl _ hW
    exact ht.appended hc hW hn hroom _
  bit hW hW' _ ht := ht.update (unchanged_setWriter _ hW hW' _ _) rfl
  emptied hW hW' ht := ht.update (unchanged_setWriter _ hW hW' _ _) rfl
  setFlushed hW ht := ht.update (unchanged_setFlushed _ hW _) rfl
  setBrPos hW ht := ht.update (unchanged_setBrPos _ hW _) rfl
  setDecoder hW hW' ht := ht.update (unchanged_setDecoder _ hW hW' _ _) rfl
  setLzP hW ht := ht.update (unchanged_setLzP _ hW _) rfl
  setDecMpos hW ht := ht.update (unchanged_setDecMpos _ hW _) rfl
  setHdr hW ht := ht.update (unchanged_setHdr _ hW _) rfl
  setRaw hW ht := ht.update (unchanged_setRaw _ hW _) rfl
  setResult hW ht := ht.update (unchanged_setResult _ hW _) rfl
  setValid hW _ ht := ht.setValid hW _
  closeEncoder hW ht := ht.update (unchanged_valid _ hW _) rfl
  putModel {_ t} hW hf hc _ ht := by
    refine Framed.setValid (t := t.setTables _ _) ?_ hW .ss
    exact ht.update (unchanged_setTables t hf hc _ _) rfl
  putSymbol hW _ _ _ ht := ht.update (unchanged_setReState _ hW _) rfl

/-! ### The commands that store nothing -/

/-- The commands of `Obligations.FrameOfCommandsThatStoreNothing`. -/
def storeless : List Instr :=
  [.bwInit, .bwBytes, .brInit, .brRbit, .brRbits, .ssCount, .ssLoad, .reInit, .rdInit, .rdGet, .lzInit, .decInit]

theorem bwInit_framed (s : State) : Framed .bwInit s (bwInit s) := by
  have hlen := (Framed.refl .bwInit s).setLen (sp := .flags) (by decide) rfl 0#32
  have hwriter := hlen.update (unchanged_setWriter _ (by decide) (by decide) 0#8 0#3) rfl
  exact hwriter.update (unchanged_setFlushed _ (by decide) false) rfl

theorem reInit_framed (s : State) : Framed .reInit s (reInit s.cfg s) := by
  have hstate := (Framed.refl .reInit s).update (unchanged_setReState s (by decide) (BitVec.ofNat 32 s.cfg.ransL)) rfl
  exact (hstate.setLen (sp := .rans) (by decide) rfl 0#32).setValid (by decide) .re

theorem lzInit_framed (s : State) : Framed .lzInit s (lzInit s) := by
  have hp := (Framed.refl .lzInit s).update (unchanged_setLzP s (by decide) 0#32) rfl
  have hlit := hp.setLen (sp := .lit) (by decide) rfl 0#32
  exact (hlit.setLen (sp := .mtch) (by decide) rfl 0#32).setValid (by decide) .lz

theorem decInit_framed (s : State) : (decInit s.cfg s).Keeps (Framed .decInit s) := by
  have hs := Framed.refl .decInit s
  have hpos := hs.update (unchanged_setDecMpos s (by decide) 0#32) rfl
  refine checked_keeps hs ?_
  exact Res.keeps_ite (fun _ => .raised (by decide) hs) fun _ =>
    .ok _ ((hpos.setLen (sp := .out) (by decide) rfl 0#32).setValid (by decide) .dec)

theorem bodyOf_framed_of_storeless {i : Instr} (hi : i ∈ storeless) (s : State) : (bodyOf i s).Keeps (Framed i s) := by
  have hs := Framed.refl i s
  have hresult : Field.result ∈ writesOf i → ∀ v t, Framed i s t → (setResult v t).Keeps (Framed i s) :=
    fun h v t ht => .ok _ (ht.update (unchanged_setResult t h v) rfl)
  cases i with
  | bwInit => exact .ok _ (bwInit_framed s)
  | bwBytes => exact hresult (by decide) _ _ hs
  | brInit => exact (framed_keptBy (by simp [writesOf])).brInit_keeps (fun _ h => h) hs
  | brRbit =>
    exact ((framed_keptBy (by simp [writesOf])).brRbit_keeps (by decide) hs).andThen fun _ _ => hresult (by decide) _ _
  | brRbits =>
    exact ((framed_keptBy (by simp [writesOf])).brRbits_keeps (by decide) hs).andThen fun _ _ => hresult (by decide) _ _
  | ssCount => exact (framed_keptBy (by simp [writesOf])).ssCount_keeps (fun _ h => h) hs
  | ssLoad => exact (framed_keptBy (by simp [writesOf])).ssLoad_keeps (fun _ h => h) hs
  | reInit => exact .ok _ (reInit_framed s)
  | rdInit => exact (framed_keptBy (by simp [writesOf])).rdInit_keeps (fun _ h => h) hs
  | rdGet =>
    exact ((framed_keptBy (by simp [writesOf])).rdGet_keeps (by decide) (by decide) hs).andThen fun _ _ =>
      hresult (by decide) _ _
  | lzInit => exact .ok _ (lzInit_framed s)
  | decInit => exact decInit_framed s
  | _ => simp [storeless] at hi

theorem storesFrom_of_storeless {i : Instr} (hi : i ∈ storeless) (s : State) (sp : Space) : storesFrom i s sp = none := by
  simp only [storeless, List.mem_cons, List.not_mem_nil, or_false] at hi
  rcases hi with rfl | rfl | rfl | rfl | rfl | rfl | rfl | rfl | rfl | rfl | rfl | rfl <;> rfl

/-- Settles O55: the bodies keep `Framed`, and these commands store from nowhere on. -/
theorem frameOfCommandsThatStoreNothing : Obligations.FrameOfCommandsThatStoreNothing := by
  intro i s t hi h
  have hne : i ≠ .reset := by rintro rfl; simp at hi
  rw [exec_eq_command hne] at h
  have ht := command_keeps (fun _ v hu => hu.status v) (Framed.refl i s) (bodyOf_framed_of_storeless hi s).all h
  exact ⟨ht.fields, fun sp a => ht.bytes fun n hn => by simp [storesFrom_of_storeless hi] at hn⟩

end Sys2Proof.Machine


/-! PROOFS. Frames of the commands and tokens that store (spec 45_orchestration R242, R253), of the host's accesses (10_state R22, R32)
and of `RESET` (70_reset R300). -/

namespace Sys2Proof.Machine

/-! ### Commands and tokens that store -/

/-- The conclusion of `Obligations.FrameOfCommandsThatStore`. -/
def StoresOnly (i : Instr) (s t : State) : Prop :=
  Unchanged (writesOf i) s t ∧
    ∀ sp a, (∀ from_, storesFrom i s sp = some from_ → a < from_ ∨ storesUpTo i s t sp ≤ a) → t.byte sp a = s.byte sp a

theorem StoresOnly.status {i : Instr} {s t : State} (h : StoresOnly i s t) (v : BitVec 8) :
    StoresOnly i s { t with status := v } :=
  ⟨h.1.trans (unchanged_status t (status_mem_writesOf i) v), h.2⟩

theorem StoresOnly.refl (i : Instr) (s : State) : StoresOnly i s s := ⟨Unchanged.refl _ s, fun _ _ _ => rfl⟩

theorem Framed.storesOnly {i : Instr} {s t : State} (h : Framed i s t) (hi : i ≠ .decRun ∨ s.cfg.decOvershoot = .keep) :
    StoresOnly i s t :=
  ⟨h.fields, fun sp a ha => h.bytes fun n hn => by rw [← storesUpTo_eq_len t sp hi]; exact ha n hn⟩

theorem ssStore_framed (s : State) : (ssStore s.cfg s).Keeps (Framed .ssStore s) := by
  have hs := Framed.refl .ssStore s
  refine checked_keeps hs (.ok _ (hs.load (by decide) rfl (fun _ => rfl) ?_))
  rw [modelBytes_length]
  decide

theorem ctPack_framed {s : State} (hc : s.cfg.Bounded) : (ctPack s.cfg s).Keeps (Framed .ctPack s) := by
  have hs := Framed.refl .ctPack s
  have hhdr := hs.update (unchanged_setHdr s (by decide) (packHeader s)) rfl
  refine checked_keeps_of_pass hs fun _ hl => .ok _ ?_
  refine (hhdr.load (by decide) rfl (fun _ => by simp) ?_).setValid (by decide) .hdr
  have hrans := hl .rans (by simp)
  have hflags := hl .flags (by simp)
  have hmtch := hl .mtch (by simp)
  have hmodel := hl .model (by simp)
  have hN := hc.2
  simp only [capacity, ceilDiv8, modelSize] at hrans hflags hmtch hmodel
  rw [packBytes_length]
  omega

theorem unpackRegions_framed {s t : State} (ht : Framed .ctUnpack s t) (hb : t.buf = s.buf) {r f m : Nat} (hr : r < 2 ^ 32)
    (hf : f < 2 ^ 32) (hm : m < 2 ^ 32) : Framed .ctUnpack s (unpackRegions r f m t) := by
  have hbyte : ∀ sp a, t.byte sp a = s.byte sp a := fun sp => State.byte_congr (congrFun hb sp)
  have hlen : ∀ a n, n < 2 ^ 32 → (t.bytes .art a n).length < 2 ^ 32 := fun a n hn => by rwa [State.bytes_length]
  have hrans := ht.load (sp := .rans) (by decide) rfl (hbyte _) (hlen headerSize r hr)
  have hflags := hrans.load (sp := .flags) (by decide) rfl (fun a => by simp [hbyte]) (hlen (headerSize + r) f hf)
  have hmtch := hflags.load (sp := .mtch) (by decide) rfl (fun a => by simp [hbyte]) (hlen (headerSize + r + f) m hm)
  exact hmtch.load (sp := .model) (by decide) rfl (fun a => by simp [hbyte])
    (hlen (headerSize + r + f + m) modelSize (by decide))

theorem ctUnpack_framed (s : State) : (ctUnpack s.cfg s).Keeps (Framed .ctUnpack s) := by
  have hs := Framed.refl .ctUnpack s
  have hhdr : ∀ h, Framed .ctUnpack s (s.setHdr h) := fun h => hs.update (unchanged_setHdr s (by decide) h) rfl
  have hregions : ∀ (h : Header) (r f m : Word),
      Framed .ctUnpack s ((unpackRegions r.toNat f.toNat m.toNat (s.setHdr h)).setValid .hdr) := fun h r f m =>
    (unpackRegions_framed (hhdr h) rfl r.isLt f.isLt m.isLt).setValid (by decide) .hdr
  refine checked_keeps hs ?_
  refine Res.keeps_ite (fun _ => .raised (by decide) hs) fun _ => ?_
  refine Res.keeps_ite (fun _ => .raised (by decide) (hhdr _)) fun _ => ?_
  refine Res.keeps_ite (fun _ => .raised (by decide) (hhdr _)) fun _ => ?_
  refine Res.keeps_ite (fun _ => .raised (by decide) (hhdr _)) fun _ => ?_
  exact Res.keeps_ite (fun _ => .raised (by decide) (hhdr _)) fun _ => .ok _ (hregions _ _ _ _)

/-- `LZ.PARSE` empties its two outputs and stores in them from 0 on. -/
theorem lzParse_framed {s : State} (hc : s.cfg.Bounded) : (lzParse s.cfg s).Keeps (Framed .lzParse s) := by
  have hU := framed_keptBy (i := .lzParse) (s := s) (by simpa [writesOf, storesFrom] using hc)
  have hinit : Framed .lzParse s (lzInit s) := by
    refine ⟨(lzInit_framed s).fields.mono (by decide), fun {sp n} hn => ?_, fun _ => by simp [lzInit]⟩
    cases sp <;> cases hn
    case lit => exact Nat.zero_le _
    case mtch => exact Nat.zero_le _
    case flags => simp [lzInit]
  have hsub : ∀ f ∈ writesOf .lzStep, f ∈ writesOf .lzParse := by decide
  exact checked_keeps (Framed.refl .lzParse s) (lzLoop_keeps (fun _ ht => hU.lzStep_keeps hsub ht) hinit)

/-! #### Tokens and `DEC.RUN` -/

/-- The instructions that run `DEC.STEP`: the fields they may write come down to the token at the cursor. -/
theorem decStep_framed {i : Instr} {s t : State} (hc : s.cfg.Bounded) (ht : Framed i s t)
    (hout : ∀ sp, Field.len sp ∈ writesOf i ↔ sp = .out) (hfrom : storesFrom i s .out = some (s.len .out))
    (hpos : Field.brPos ∈ writesOf i)
    (hlit : ∀ r, t.tokenHere = .ok (.lit, r) → Field.rdState ∈ writesOf i ∧ Field.rdPtr ∈ writesOf i)
    (hmtch : ∀ dist len r, t.tokenHere = .ok (.mtch dist len, r) → Field.decMpos ∈ writesOf i) :
    (decStep s.cfg t).Keeps (Framed i s) := by
  refine (framed_keptBy fun sp hsp => ?_).decStep_keeps hpos ((hout .out).mpr rfl) hlit hmtch ht
  obtain rfl := (hout sp).mp hsp
  exact ⟨hc, _, hfrom⟩

theorem lit_framed {s : State} (hc : s.cfg.Bounded) : (bodyOf .lit s).Keeps (Framed .lit s) := by
  refine Res.keeps_ite (fun hlit => ?_) fun _ => .refused
  refine decStep_framed hc (Framed.refl .lit s) (by simp [writesOf]) rfl (by decide) (fun _ _ => by decide)
    fun dist len r hm => ?_
  simp [litHere, hm] at hlit

theorem matchTok_framed {s : State} (hc : s.cfg.Bounded) (dist : Half) (len : Byte) :
    (bodyOf (.matchTok dist len) s).Keeps (Framed (.matchTok dist len) s) := by
  refine Res.keeps_ite (fun hmtch => ?_) fun _ => .refused
  refine decStep_framed hc (Framed.refl _ s) (by simp [writesOf]) rfl (by simp [writesOf]) (fun r hl => ?_)
    fun _ _ _ _ => by simp [writesOf]
  simp [matchHere, hl] at hmtch

theorem append_len_le (c : Config) (sp : Space) (b : Byte) (s : State) :
    (append c sp b s).Keeps fun t => t.len sp ≤ s.len sp + 1 := by
  rcases append_cases c sp b s with ⟨-, hr⟩ | ⟨-, hr⟩ <;> rw [hr]
  · refine .ok _ ?_
    rw [State.appended, State.setLen_len_same, BitVec.toNat_add]
    exact Nat.mod_le _ _
  · exact .refused

theorem copyOut_len_le (c : Config) (n src : Nat) (s : State) :
    (copyOut c n src s).Keeps fun t => t.len .out ≤ s.len .out + n := by
  induction n generalizing s src with
  | zero => exact .ok _ le_rfl
  | succ n ih =>
    exact (append_len_le c .out _ s).bind (fun _ t ht => (ih (src + 1) t).imp fun u hu => by omega) fun _ ht => by omega

theorem litToken_len_le (c : Config) (s : State) : (litToken c s).Keeps fun t => t.len .out ≤ s.len .out + 1 := by
  have hget : (rdGet c s).Keeps fun t => t.len .out = s.len .out := checked_keeps rfl (.ok _ (by simp))
  exact hget.bind (fun _ t ht => ht ▸ append_len_le c .out _ t) fun _ ht => by omega

theorem matchToken_len_le (c : Config) (dist : Half) (len : Byte) (s : State) :
    (matchToken c dist len s).Keeps fun t => t.len .out ≤ s.len .out + 255 := by
  have hlen := len.isLt
  refine Res.keeps_ite (fun _ => .raised (by decide) (by simp)) fun _ => ?_
  refine (copyOut_len_le c _ _ _).imp fun t ht => ?_
  rw [State.setDecMpos_len] at ht
  omega

/-- One token carries the output at most 254 bytes past the original size (45_orchestration R242). -/
theorem decStep_len_le (c : Config) (s : State) :
    (decStep c s).Keeps fun t => t.len .out ≤ max (s.len .out) (s.hdr.origSize.toNat + 254) := by
  refine checked_keeps_of_pass (le_max_left _ _) fun hp _ => ?_
  have hmore : s.len .out < s.hdr.origSize.toNat := of_decide_eq_true (Bool.and_eq_true_iff.mp hp).2
  rcases brRbit_cases c s with hr | hr | ⟨p, hr⟩ <;> rw [hr]
  · exact .refused
  · exact .raised (by decide) (le_max_left _ _)
  · rw [Res.bind_ok]
    have hlen : (s.setBrPos p).len .out = s.len .out := State.setBrPos_len p s .out
    split
    · exact (litToken_len_le c _).imp fun t ht => by omega
    · exact (matchToken_len_le c _ _ _).imp fun t ht => by omega
    · exact .raised (by decide) (by omega)

/-- What `DEC.RUN` stores stands below `HDR.orig_size + 254`. -/
theorem Framed.storesOnly_decRun {s t : State} (h : Framed .decRun s t)
    (hlen : t.len .out ≤ max (s.len .out) (s.hdr.origSize.toNat + 254)) : StoresOnly .decRun s t := by
  by_cases ho : s.cfg.decOvershoot = .truncate
  · refine ⟨h.fields, fun sp a ha => h.bytes fun n hn => ?_⟩
    have := ha n hn
    have hle := storesFrom_le hn
    obtain rfl : sp = .out := by cases sp <;> cases hn; rfl
    rw [storesUpTo, if_pos ⟨rfl, ho⟩] at this
    cases hn
    omega
  · exact h.storesOnly (.inr (by cases hd : s.cfg.decOvershoot <;> simp_all))

theorem StoresOnly.decEnd {s t : State} (h : StoresOnly .decRun s t) : StoresOnly .decRun s (decEnd s.cfg t) := by
  unfold Machine.decEnd
  split
  next ho =>
    refine ⟨h.1.trans (unchanged_setLen t (by decide) _), fun sp a ha => ?_⟩
    rw [State.setLen_byte]
    refine h.2 sp a fun n hn => ?_
    have := ha n hn
    rwa [storesUpTo, if_pos ⟨rfl, ho.1⟩] at this ⊢
  next => exact h

theorem decRun_storesOnly {s : State} (hc : s.cfg.Bounded) : (decRun s.cfg s).Keeps (StoresOnly .decRun s) := by
  have hstep : ∀ t, Framed .decRun s t ∧ t.len .out ≤ max (s.len .out) (s.hdr.origSize.toNat + 254) →
      (decStep s.cfg t).Keeps fun t => Framed .decRun s t ∧ t.len .out ≤ max (s.len .out) (s.hdr.origSize.toNat + 254) := by
    intro t ⟨ht, hlen⟩
    have hhdr : t.hdr = s.hdr := ht.fields .hdr (by decide)
    refine Res.Keeps.and ?_ ?_
    · exact decStep_framed hc ht (by simp [writesOf]) rfl (by decide) (fun _ _ => by decide) fun _ _ _ _ => by decide
    · exact (decStep_len_le s.cfg t).imp fun u hu => by rw [hhdr] at hu; omega
  refine checked_keeps (StoresOnly.refl _ s) ?_
  exact (decLoop_keeps hstep ⟨Framed.refl _ s, le_max_left _ _⟩).bind
    (fun _ t ht => .ok _ (ht.1.storesOnly_decRun ht.2).decEnd) fun t ht => ht.1.storesOnly_decRun ht.2

/-- The commands and tokens of `Obligations.FrameOfCommandsThatStore` but `MATCH`, whose operands make it no one instruction. -/
def storing : List Instr :=
  [.bwWbit, .bwWbits, .bwFlush, .ssStore, .rePut, .reFlush, .lzStep, .lzParse, .ctPack, .ctUnpack, .decStep, .decRun, .lit]

theorem bodyOf_storesOnly {i : Instr} {s : State} (hc : s.cfg.Bounded) (hi : (∃ dist len, i = .matchTok dist len) ∨ i ∈ storing) :
    (bodyOf i s).Keeps (StoresOnly i s) := by
  have hs := Framed.refl i s
  by_cases hrun : i = .decRun
  · subst hrun
    exact decRun_storesOnly hc
  suffices h : (bodyOf i s).Keeps (Framed i s) from h.imp fun t ht => ht.storesOnly (.inl hrun)
  cases i with
  | matchTok dist len => exact matchTok_framed hc dist len
  | lit => exact lit_framed hc
  | bwWbit => exact (framed_keptBy (by simpa [writesOf, storesFrom] using hc)).bwWbit_keeps (fun _ h => h) hs
  | bwWbits => exact (framed_keptBy (by simpa [writesOf, storesFrom] using hc)).bwWbits_keeps (fun _ h => h) hs
  | bwFlush => exact (framed_keptBy (by simpa [writesOf, storesFrom] using hc)).bwFlush_keeps (fun _ h => h) hs
  | ssStore => exact ssStore_framed s
  | rePut => exact (framed_keptBy (by simpa [writesOf, storesFrom] using hc)).rePut_keeps (fun _ h => h) hs
  | reFlush => exact (framed_keptBy (by simpa [writesOf, storesFrom] using hc)).reFlush_keeps (fun _ h => h) hs
  | lzStep => exact (framed_keptBy (by simpa [writesOf, storesFrom] using hc)).lzStep_keeps (fun _ h => h) hs
  | lzParse => exact lzParse_framed hc
  | ctPack => exact ctPack_framed hc
  | ctUnpack => exact ctUnpack_framed s
  | decStep =>
    exact decStep_framed hc hs (by simp [writesOf]) rfl (by decide) (fun _ _ => by decide) fun _ _ _ _ => by decide
  | decRun => exact absurd rfl hrun
  | _ => simp [storing] at hi

/-- Settles O56: the bodies store only where `Framed` says, and `DEC.RUN`, which may cut the length back, below
`HDR.orig_size + 254` (`decStep_len_le`). -/
theorem frameOfCommandsThatStore : Obligations.FrameOfCommandsThatStore := by
  intro i s t hc hi h
  have hne : i ≠ .reset := by rintro rfl; simp at hi
  rw [exec_eq_command hne] at h
  exact command_keeps (fun _ v hu => hu.status v) (StoresOnly.refl i s) (bodyOf_storesOnly hc hi).all h

/-! ### The token at the cursor -/

/-- Settles O39: the token's own precondition, that it stands at the cursor, holds. -/
theorem decStepRunsTheToken : Obligations.DecStepRunsTheToken := by
  intro s tok rest htok
  suffices hbody : bodyOf .decStep s = bodyOf tok.instr s by
    rw [exec_eq_command (by simp), exec_eq_command (by cases tok <;> simp [Token.instr]), command_congr hbody]
  cases tok with
  | lit => exact (if_pos (show litHere s = true by simp [litHere, htok])).symm
  | mtch dist len => exact (if_pos (show matchHere dist len s = true by simp [matchHere, htok])).symm

/-! ### The host's accesses and `RESET` -/

/-- A byte written stands where it was written, and every other byte and register is kept. -/
theorem writeByte_frame (sp : Space) (a : Nat) (b : Byte) (s : State) :
    (s.writeBytes sp a [b]).byte sp a = b ∧ BytesKeptOutside sp a (a + 1) s (s.writeBytes sp a [b]) := by
  refine ⟨by simp [State.writeBytes_byte_same], fun x k hk => ?_⟩
  by_cases hx : x = sp
  · subst hx
    have hlt := hk.resolve_left (absurd rfl)
    have hout : ¬ (a ≤ k ∧ k < a + [b].length) := by rw [List.length_singleton]; omega
    rw [State.writeBytes_byte_same, dif_neg hout]
  · exact State.writeBytes_byte_ne hx a [b] s k

/-- A register that the host can read and not write ignores the write (60_exceptions R282). -/
theorem hostWriteReg_readOnly {num : Nat} {v : Word} {s : State}
    (hn : num ∉ [0x01, 0x02, 0x05, 0x06, 0x12, 0x19, 0x1D, 0x1E, 0x20]) (hr : (hostRead num s).isSome = true) :
    hostWriteReg num v s = .next s := by
  unfold hostWriteReg
  split
  case h_10 => rw [if_pos hr]
  all_goals simp at hn

/-- Settles O7: the RW registers' arms of `hostWriteReg` by evaluation, the read-only ones and the bytes by their laws. -/
theorem hostAccesses : Obligations.HostAccesses := by
  refine ⟨fun s num v rest hp => ?_, fun s sp addr b rest hp hsp hl => ?_⟩
  · have hstep : num ≠ 0 → step s = hostWriteReg num v { s with pending := rest } := step_writeReg hp
    refine ⟨?_, ?_, ?_, ?_, ?_, ?_, ?_, ?_, ?_, fun hn hr => ?_⟩
    case refine_10 =>
      rw [hstep (by rintro rfl; cases hr)]
      exact hostWriteReg_readOnly hn hr
    all_goals rintro rfl; exact hstep (by decide)
  · obtain ⟨hsame, hkept⟩ := writeByte_frame sp addr.toNat b { s with pending := rest }
    refine ⟨_, ?_, hsame, ?_, ?_, hkept⟩
    · rw [step_writeByte hp, hostWriteByte, if_neg hsp, if_pos hl]
    · exact (unchanged_pending s (by decide) rest).trans (unchanged_writeBytes _ sp _ [b])
    · exact State.writeBytes_pending sp _ [b] _

theorem resetAll_resetValues (s : State) : ResetValues (s.resetAll s.cfg) :=
  ⟨rfl, rfl, rfl, rfl, rfl, fun sp => by cases sp <;> rfl, rfl, rfl, rfl, rfl, rfl, rfl⟩

/-- Settles O13: `RESET` writes every field but `CMD`, the pending accesses and the parameters. -/
theorem resetLeavesResetValues : Obligations.ResetLeavesResetValues := by
  refine ⟨⟨rfl, rfl, rfl, rfl, rfl, fun sp => by cases sp <;> rfl, rfl, rfl, rfl, rfl, rfl, rfl⟩, fun s => ?_⟩
  refine ⟨_, exec_reset s, resetAll_resetValues s, fun f hf => ?_⟩
  cases f with
  | cmd | pending | cfg => rfl
  | len sp => cases sp <;> simp [writesOf] at hf
  | _ => simp [writesOf] at hf

end Sys2Proof.Machine


/-! PROOFS. How a command ends in each of the three ways of a unit operation (spec 00_scope R11; 60_exceptions R268, R270, R272), and
which commands overflow on a buffer they read (20_memory R70, 60_exceptions R274). -/

namespace Sys2Proof.Machine

/-! ### The end of a command -/

theorem State.takeFault_eq (k : ErrKind) {s : State} (h : s.err = 0#4) :
    s.takeFault k = { s with status := mkStatus k.code true } := by
  rw [State.takeFault, State.setDone, State.recordErr_err, State.recordErr, if_pos h, if_pos h]

section CommandEnds
variable {i : Instr} {s : State} (hi : i ≠ .reset) (hs : s.err = 0#4)
include hi hs

/-- A command whose body ends `ok` ends with no error: no body touches `STATUS`. -/
theorem exec_of_ok {t : State} (hb : bodyOf i s = .ok () t) : exec i s = .next { t with status := mkStatus 0#4 true } := by
  obtain ⟨hst, -⟩ := Res.keeps_ok_iff.mp (hb ▸ bodyOf_keeps i s)
  rw [exec_eq_command hi, command_ok hs hb, State.setDone, (State.err_eq_of_status hst).trans hs]

/-- A command that raises before it has changed anything changes `STATUS` alone. -/
theorem exec_of_raised {k : ErrKind} (hb : bodyOf i s = .raised k s) :
    exec i s = .next { s with status := mkStatus k.code true } := by
  rw [exec_eq_command hi, command_raised hs hb, State.takeFault_eq k hs]

/-- A command that overflows changes `STATUS` alone (60_exceptions R268). -/
theorem exec_of_overflow (hb : bodyOf i s = .raised .sizeOverflow s) :
    exec i s = .next { s with status := mkStatus 13#4 true } := exec_of_raised hi hs (k := .sizeOverflow) hb

/-- A command that refuses changes `STATUS` alone (00_scope R11). -/
theorem exec_of_refused (hb : bodyOf i s = .refused) : exec i s = .next { s with status := mkStatus 12#4 true } := by
  rw [exec_eq_command hi, command_refused hs hb, State.takeRefusal_eq, if_pos hs]
  rfl

end CommandEnds

/-- Where an instruction stores in one buffer alone, what it leaves is told by that buffer and the fields it may write. -/
theorem exec_storesIn {i : Instr} {s t : State} {sp : Space} {n : Nat} (hc : s.cfg.Bounded) (h : exec i s = .next t)
    (hi : (∃ dist len, i = .matchTok dist len) ∨ i ∈ storing) (hrun : i ≠ .decRun)
    (hfrom : ∀ x, storesFrom i s x = if x = sp then some n else none) :
    Unchanged (writesOf i) s t ∧ BytesKeptOutside sp n (t.len sp) s t := by
  obtain ⟨hfields, hbytes⟩ := frameOfCommandsThatStore i s t hc hi h
  refine ⟨hfields, fun x a hx => hbytes x a fun m hm => ?_⟩
  rw [storesUpTo_eq_len t x (.inl hrun)]
  rw [hfrom] at hm
  split at hm
  next hxs =>
    cases hm
    exact hxs ▸ hx.resolve_left (not_not_intro hxs)
  next => cases hm

/-! ### Buffers longer than their capacity -/

/-- `RD.INIT` is ready whenever `RANS` overflows: its capacity is at least four bytes. -/
theorem four_le_of_rans_overflow {s : State} (h : capacity s.cfg .rans < s.len .rans) : 4 ≤ s.len .rans := by
  simp only [capacity] at h
  omega

/-- Settles O58: the body of each of these commands starts with its checks, whose precondition is the clause's, so it raises
(`checked_overflows`). -/
theorem inputBufferOverflow : Obligations.InputBufferOverflow := by
  intro s hs
  refine ⟨fun i sp hmem hl => ?_, fun hv hl => ⟨?_, fun hn => ?_⟩, fun hrd hss hcum hl => ?_, fun hv hp hl => ?_,
    fun hm hcnt hre sp hsp hl => ?_, fun hr hlt sp hsp hl => ?_⟩
  · simp only [List.mem_cons, List.not_mem_nil, or_false, Prod.mk.injEq] at hmem
    obtain ⟨rfl, rfl⟩ | ⟨rfl, rfl⟩ | ⟨rfl, rfl⟩ | ⟨rfl, rfl⟩ | ⟨rfl, rfl⟩ | ⟨rfl, rfl⟩ | ⟨rfl, rfl⟩ := hmem
    case inr.inr.inr.inl =>
      have hrd : decide (4 ≤ s.len .rans) = true := decide_eq_true (four_le_of_rans_overflow hl)
      exact exec_of_overflow (by decide) hs (by rw [bodyOf]; exact checked_overflows hrd ⟨_, by simp, hl⟩)
    all_goals exact exec_of_overflow (by decide) hs (by rw [bodyOf]; exact checked_overflows rfl ⟨_, by simp, hl⟩)
  · refine exec_of_overflow (by decide) hs ?_
    dsimp only [bodyOf, brRbit]
    rw [checked_overflows hv ⟨_, by simp, hl⟩, Res.bind_raised]
  · refine exec_of_overflow (by decide) hs ?_
    dsimp only [bodyOf, brRbits]
    rw [checked_overflows (by simp [hv, hn]) ⟨_, by simp, hl⟩, Res.bind_raised]
  · refine exec_of_overflow (by decide) hs ?_
    dsimp only [bodyOf, rdGet]
    rw [checked_overflows (by simp [hrd, hss, State.modelFull, hcum]) ⟨_, by simp, hl⟩, Res.bind_raised]
  · refine exec_of_overflow (by decide) hs ?_
    dsimp only [bodyOf, lzStep]
    rw [checked_overflows (by simp [hv, hp]) ⟨_, by simp, hl⟩]
  · refine exec_of_overflow (by decide) hs ?_
    dsimp only [bodyOf, ctPack]
    rw [checked_overflows (by simp [hm, hcnt, hre]) ⟨sp, ?_, hl⟩]
    simp only [List.mem_cons, List.not_mem_nil, or_false] at hsp ⊢
    tauto
  · refine exec_of_overflow (by decide) hs ?_
    dsimp only [bodyOf, decStep]
    rw [checked_overflows (by simp [hr, decMore, hlt]) ⟨sp, hsp, hl⟩]

end Sys2Proof.Machine


/-! PROOFS. The BitWriter's commands (spec 40_bitio R123 to R125; 20_memory R70). -/

namespace Sys2Proof.Machine

/-! ### Operations that do not fault -/

/-- An operation that ends `ok` or refuses: it raises nothing. -/
def Res.Quiet {α : Type} : Res α → Prop
  | .ok _ _ => True
  | .raised _ _ => False
  | .refused => True

/-- Where such an operation cannot end `ok` it refuses. -/
theorem Res.Quiet.eq_refused {α : Type} {r : Res α} (h : r.Quiet) (hn : ∀ a t, r ≠ .ok a t) : r = .refused := by
  cases r with
  | ok a t => exact absurd rfl (hn a t)
  | raised k t => exact h.elim
  | refused => rfl

theorem Res.Quiet.bind {α β : Type} {r : Res α} {f : α → State → Res β} (hr : r.Quiet) (hf : ∀ a t, (f a t).Quiet) :
    (r.bind f).Quiet := by
  cases r with
  | ok a t => exact hf a t
  | raised k t => exact hr.elim
  | refused => trivial

theorem append_quiet (c : Config) (sp : Space) (b : Byte) (s : State) : (append c sp b s).Quiet := by
  rcases append_cases c sp b s with ⟨-, hr⟩ | ⟨-, hr⟩ <;> rw [hr] <;> trivial

theorem appendList_quiet (c : Config) (sp : Space) (bs : List Byte) (s : State) : (appendList c sp bs s).Quiet := by
  induction bs generalizing s with
  | nil => trivial
  | cons b bs ih => exact (append_quiet c sp b s).bind fun _ t => ih t

theorem bwWbit_quiet (c : Config) (b : Bool) (s : State) : (bwWbit c b s).Quiet := by
  rcases bwWbit_cases c b s with ⟨-, -, hr⟩ | ⟨-, -, -, hr⟩ | hr <;> rw [hr] <;> trivial

theorem bwBits_quiet (c : Config) (v : Word) (n : Nat) (s : State) : (bwBits c v n s).Quiet := by
  induction n generalizing s with
  | zero => trivial
  | succ n ih => exact (bwWbit_quiet c _ s).bind fun _ t => ih t

/-- A list of bytes that the buffer has no room for is refused (20_memory R70). -/
theorem appendList_full {c : Config} (hc : c.Bounded) {sp : Space} {bs : List Byte} {s : State} (hne : bs ≠ [])
    (hl : capacity c sp < s.len sp + bs.length) : appendList c sp bs s = .refused := by
  refine (appendList_quiet c sp bs s).eq_refused fun _ t ht => ?_
  obtain ⟨-, hlen, -, -, hcap⟩ := appendList_spec hc ht
  have := hcap hne
  omega

/-- What an append leaves of its buffer. -/
theorem appended_spec {c : Config} (hc : c.Bounded) {sp : Space} {s : State} (b : Byte) (hl : s.len sp < capacity c sp) :
    (s.appended sp b).len sp = s.len sp + 1 ∧ (s.appended sp b).byte sp (s.len sp) = b := by
  obtain ⟨-, hlen, hbyte, -⟩ := append_spec hc (append_ok b hl)
  exact ⟨hlen, hbyte⟩

/-! ### One bit -/

/-- The bit `ARG0[0]` in place `7 - BW.cnt`, as a number (40_bitio R123). -/
theorem withBit_argBit (s : State) :
    withBit s s.argBit = s.bwCur ||| BitVec.ofNat 8 ((s.arg0.toNat % 2) * 2 ^ (7 - s.bwCnt.toNat)) := by
  have hbit : (BitVec.ofBool s.argBit).toNat = s.arg0.toNat % 2 := by
    rw [BitVec.toNat_ofBool, State.argBit, ← BitVec.testBit_toNat, Nat.testBit_zero]
    rcases Nat.mod_two_eq_zero_or_one s.arg0.toNat with h | h <;> simp [h]
  rw [withBit]
  congr 1
  apply BitVec.eq_of_toNat_eq
  rw [BitVec.toNat_shiftLeft, BitVec.toNat_setWidth, BitVec.toNat_ofNat, hbit, Nat.shiftLeft_eq,
    Nat.mod_eq_of_lt (a := s.arg0.toNat % 2) (by omega)]

/-- Settles O15: the four ends of `BW.WBIT` are `bwWbit_room`, `bwWbit_full`, `bwWbit_no_room` and `bwWbit_closed`. -/
theorem bwWbitResult : Obligations.BwWbitResult := by
  intro s hs
  rw [← withBit_argBit]
  refine ⟨fun ho hcnt => ?_, fun ho hcnt hc hl => ?_, fun hcnt hl => ?_, fun ho => ?_⟩
  · exact exec_of_ok (i := .bwWbit) (by decide) hs (bwWbit_room ho hcnt)
  · have ht := exec_of_ok (i := .bwWbit) (by decide) hs (bwWbit_full ho hcnt hl)
    obtain ⟨hlen, hbyte⟩ := appended_spec hc (withBit s s.argBit) hl
    obtain ⟨hfields, hkept⟩ := exec_storesIn (sp := .flags) (n := s.len .flags) hc ht (.inr (by decide)) (by decide)
      (fun x => by cases x <;> rfl)
    exact ⟨_, ht, rfl, rfl, rfl, hlen, hbyte, hfields, fun x a h => hkept x a (hlen ▸ h)⟩
  · exact exec_of_refused (i := .bwWbit) (by decide) hs (bwWbit_no_room hcnt hl)
  · exact exec_of_refused (i := .bwWbit) (by decide) hs (bwWbit_closed ho)

/-- Settles O17: `BW.FLUSH` of an empty writer only takes note of itself; else it is one append. -/
theorem bwFlushResult : Obligations.BwFlushResult := by
  intro s hs
  refine ⟨fun hcnt => ?_, fun hcnt hc hl => ?_, fun hcnt hl => ?_⟩
  · exact exec_of_ok (i := .bwFlush) (by decide) hs (if_pos hcnt)
  · have ht := exec_of_ok (i := .bwFlush) (by decide) hs (bwFlush_partial hcnt hl)
    obtain ⟨hlen, hbyte⟩ := appended_spec hc s.bwCur hl
    obtain ⟨hfields, hkept⟩ := exec_storesIn (sp := .flags) (n := s.len .flags) hc ht (.inr (by decide)) (by decide)
      (fun x => by cases x <;> rfl)
    exact ⟨_, ht, rfl, rfl, rfl, hlen, hbyte, hfields, fun x a h => hkept x a (hlen ▸ h)⟩
  · refine exec_of_refused (i := .bwFlush) (by decide) hs ?_
    dsimp only [bodyOf]
    rw [bwFlush, if_neg hcnt, append_full _ hl, Res.bind_refused]

/-! ### Several bits -/

/-- A bit written moves the writer one bit on, and `FLAGS` grows only where it has room. -/
theorem bwWbit_count {c : Config} (hc : c.Bounded) {b : Bool} {s t : State} (h : bwWbit c b s = .ok () t) :
    8 * t.len .flags + t.bwCnt.toNat = 8 * s.len .flags + s.bwCnt.toNat + 1 ∧
      (t.len .flags = s.len .flags ∨ t.len .flags ≤ capacity c .flags) := by
  have hcnt := s.bwCnt.isLt
  rcases bwWbit_cases c b s with ⟨-, hne, hr⟩ | ⟨-, h7, hl, hr⟩ | hr <;> rw [hr] at h <;> cases h
  · have h7 : s.bwCnt.toNat ≠ 7 := fun h => hne (BitVec.eq_of_toNat_eq h)
    have hsucc : (s.bwCnt + 1#3).toNat = s.bwCnt.toNat + 1 := by
      rw [BitVec.toNat_add]
      simp
      omega
    rw [State.setWriter_len, State.setWriter_bwCnt, hsucc]
    omega
  · have h7 : s.bwCnt.toNat = 7 := congrArg BitVec.toNat h7
    have hlen : ((s.writeBytes .flags (s.len .flags) [withBit s b]).setLen .flags (s.flags.len + 1#32)).len .flags =
        s.len .flags + 1 := (appended_spec hc (withBit s b) hl).1
    rw [State.setWriter_len, State.setWriter_bwCnt, hlen, BitVec.toNat_ofNat]
    omega

/-- The bits `n-1` to `0` of `v`, the first one first. -/
def highBits (v : Word) (n : Nat) : List Bool := (List.range n).map fun k => v.getLsbD (n - 1 - k)

theorem highBits_succ (v : Word) (n : Nat) : highBits v (n + 1) = v.getLsbD n :: highBits v n := by
  simp only [highBits, List.range_succ_eq_map, List.map_cons, List.map_map, List.cons.injEq]
  refine ⟨rfl, List.map_congr_left fun k _ => ?_⟩
  rw [Function.comp_apply]
  congr 1
  omega

/-- The bits written move the writer as many bits on, and `FLAGS` grows only where it has room. -/
theorem bwBits_count {c : Config} (hc : c.Bounded) {v : Word} {n : Nat} {s t : State} (h : bwBits c v n s = .ok () t) :
    8 * t.len .flags + t.bwCnt.toNat = 8 * s.len .flags + s.bwCnt.toNat + n ∧
      (t.len .flags = s.len .flags ∨ t.len .flags ≤ capacity c .flags) := by
  induction n generalizing s with
  | zero =>
    cases h
    exact ⟨rfl, .inl rfl⟩
  | succ n ih =>
    obtain ⟨⟨⟩, u, hu, ht⟩ := Res.bind_eq_ok.mp h
    obtain ⟨h1, h2⟩ := bwWbit_count hc hu
    obtain ⟨h3, h4⟩ := ih ht
    omega

theorem bwBits_writerBits {c : Config} (hc : c.Bounded) {v : Word} {n : Nat} {s t : State} (hw : s.WriterInv)
    (h : bwBits c v n s = .ok () t) : t.writerBits = s.writerBits ++ highBits v n := by
  induction n generalizing s with
  | zero =>
    cases h
    simp [highBits]
  | succ n ih =>
    obtain ⟨⟨⟩, u, hu, ht⟩ := Res.bind_eq_ok.mp h
    obtain ⟨hinv, hbits⟩ := bwWbit_writerBits hc hw hu
    rw [ih hinv ht, hbits, highBits_succ, List.append_assoc, List.singleton_append]

/-- An open writer with room for the bytes that get complete takes the bits. -/
theorem bwBits_ok {c : Config} (hc : c.Bounded) {v : Word} {n : Nat} {s : State} (ho : bwOpen c s = true)
    (hroom : (s.bwCnt.toNat + n) / 8 = 0 ∨ s.len .flags + (s.bwCnt.toNat + n) / 8 ≤ capacity c .flags) :
    ∃ t, bwBits c v n s = .ok () t := by
  induction n generalizing s with
  | zero => exact ⟨s, rfl⟩
  | succ n ih =>
    have h7 : s.bwCnt = 7#3 → s.len .flags < capacity c .flags := fun h => by
      have h7 : s.bwCnt.toNat = 7 := congrArg BitVec.toNat h
      omega
    obtain ⟨u, hu, hframe⟩ := bwWbit_ok (b := v.getLsbD n) ho h7
    have hopen : bwOpen c u = true := by
      have hf : u.bwFlushed = s.bwFlushed := by simpa [State.withoutWriter] using congrArg State.bwFlushed hframe
      rw [← ho, bwOpen, bwOpen, hf]
    have hcnt := (bwWbit_count hc hu).1
    have hlt := u.bwCnt.isLt
    obtain ⟨t, ht⟩ := ih hopen (by omega)
    exact ⟨t, by rw [bwBits, hu, Res.bind_ok, ht]⟩

/-- Bits that complete bytes for which `FLAGS` has no room are refused (20_memory R70). -/
theorem bwBits_full {c : Config} (hc : c.Bounded) {v : Word} {n : Nat} {s : State} (h1 : 1 ≤ (s.bwCnt.toNat + n) / 8)
    (hl : capacity c .flags < s.len .flags + (s.bwCnt.toNat + n) / 8) : bwBits c v n s = .refused := by
  refine (bwBits_quiet c v n s).eq_refused fun _ t ht => ?_
  obtain ⟨hcount, hcap⟩ := bwBits_count hc ht
  have := t.bwCnt.isLt
  omega

/-- The check of `BW.WBITS` passes or refuses; it raises nothing. -/
theorem bwWbits_eq {c : Config} {v n : Word} {s : State} :
    bwWbits c v n s = if n.toNat ≤ 32 ∧ bwOpen c s = true then bwBits c v n.toNat s else .refused := by
  by_cases h : n.toNat ≤ 32 ∧ bwOpen c s = true
  · rw [if_pos h, bwWbits, checked_pass (by simpa using h) (by simp)]
  · rw [if_neg h, bwWbits, checked_refuses (by simpa using h)]

/-- Settles O16: bit by bit, `bwBits_writerBits` says what is held and `bwBits_count` how many bytes got complete. -/
theorem bwWbitsResult : Obligations.BwWbitsResult := by
  intro s hs
  have hcnt := s.bwCnt.isLt
  have hbody : bodyOf .bwWbits s = bwWbits s.cfg s.arg0 s.arg1 s := rfl
  rw [bwWbits_eq] at hbody
  refine ⟨fun hw ho hc hn hroom => ?_, fun hc hn h1 hl => ?_, fun h => ?_⟩
  · obtain ⟨t, hbits⟩ := bwBits_ok hc (v := s.arg0) ho hroom
    rw [if_pos ⟨hn, ho⟩, hbits] at hbody
    have ht := exec_of_ok (i := .bwWbits) (by decide) hs hbody
    obtain ⟨hfields, hkept⟩ := exec_storesIn (sp := .flags) (n := s.len .flags) hc ht (.inr (by decide)) (by decide)
      (fun x => by cases x <;> rfl)
    have hcount := (bwBits_count hc hbits).1
    have hheld := bwBits_writerBits hc hw hbits
    have hlt := t.bwCnt.isLt
    have hlen : t.len .flags = s.len .flags + (s.bwCnt.toNat + s.arg1.toNat) / 8 := by omega
    exact ⟨_, ht, rfl, hheld, hlen, hfields, hkept⟩
  · refine exec_of_refused (i := .bwWbits) (by decide) hs (hbody.trans ?_)
    rw [bwBits_full hc h1 hl, ite_self]
  · refine exec_of_refused (i := .bwWbits) (by decide) hs (hbody.trans (if_neg ?_))
    rintro ⟨hn, ho⟩
    rcases h with h | h
    · rw [ho] at h
      cases h
    · omega

end Sys2Proof.Machine


/-! PROOFS. The rANS encoder's commands (spec 42_rans R162, R163, R168; 20_memory R70). -/

namespace Sys2Proof.Machine

/-! ### The encoder's frame -/

theorem Field.Same.symm {f : Field} {s t : State} (h : f.Same s t) : f.Same t s := by
  cases f <;> exact Eq.symm h

theorem unchanged_withoutEncoder (s : State) : Unchanged [.reState, .len .rans] s s.withoutEncoder :=
  (unchanged_setBuf s (.inl (by decide))).trans (unchanged_setReState _ (by decide) 0#32)

/-- States that agree but for what the encoder writes. -/
theorem unchanged_of_withoutEncoder {s t : State} (h : t.withoutEncoder = s.withoutEncoder) :
    Unchanged [.reState, .len .rans] s t := fun f hf =>
  (unchanged_withoutEncoder s f hf).trans (h ▸ (unchanged_withoutEncoder t f hf).symm)

/-! ### Renormalise-out -/

/-- `k` is how many bytes the state `x` gives away before it is below the bound (42_rans R162). -/
def IsShiftCount (bound x k : Nat) : Prop := (∀ j, j < k → bound ≤ x / 256 ^ j) ∧ x / 256 ^ k < bound

theorem exists_shiftCount (x : Word) {bound : Nat} (hb : 1 ≤ bound) : ∃ k, k ≤ 4 ∧ IsShiftCount bound x.toNat k := by
  have h4 := emitBytes_fuel x hb
  have hex : ∃ k, x.toNat / 256 ^ k < bound := ⟨4, h4⟩
  exact ⟨Nat.find hex, Nat.find_min' hex h4, fun j hj => Nat.le_of_not_lt (Nat.find_min hex hj), Nat.find_spec hex⟩

theorem IsShiftCount.unique {bound x k l : Nat} (hk : IsShiftCount bound x k) (hl : IsShiftCount bound x l) : k = l := by
  obtain ⟨hk1, hk2⟩ := hk
  obtain ⟨hl1, hl2⟩ := hl
  rcases Nat.lt_trichotomy k l with h | h | h
  · have := hl1 k h
    omega
  · exact h
  · have := hk1 l h
    omega

/-- A byte shifted out is one less to shift. -/
theorem IsShiftCount.shiftRight {bound k : Nat} {x : Word} (h : IsShiftCount bound x.toNat (k + 1)) :
    IsShiftCount bound (x >>> 8).toNat k := by
  have hpow : ∀ j, (x >>> 8).toNat / 256 ^ j = x.toNat / 256 ^ (j + 1) := fun j => by
    rw [toNat_shiftRight_eight, Nat.div_div_eq_div_mul, Nat.pow_succ, Nat.mul_comm]
  obtain ⟨h1, h2⟩ := h
  exact ⟨fun j hj => by rw [hpow]; exact h1 (j + 1) (by omega), by rw [hpow]; exact h2⟩

/-- Renormalise-out is accepted with room for the bytes it shifts out, and refused without (20_memory R70). -/
theorem emitBytes_cases {c : Config} (hc : c.Bounded) {bound k fuel : Nat} {s : State} (hk : k ≤ fuel)
    (h : IsShiftCount bound s.reState.toNat k) :
    ((∃ t, emitBytes c bound fuel s = .ok () t) ∧ (k = 0 ∨ s.len .rans + k ≤ capacity c .rans)) ∨
      (emitBytes c bound fuel s = .refused ∧ 1 ≤ k ∧ capacity c .rans < s.len .rans + k) := by
  induction k generalizing fuel s with
  | zero => exact .inl ⟨⟨s, emitBytes_done (by simpa using h.2)⟩, .inl rfl⟩
  | succ k ih =>
    obtain ⟨fuel, rfl⟩ : ∃ n, fuel = n + 1 := ⟨fuel - 1, by omega⟩
    have hstep := emitBytes_step (c := c) (fuel := fuel) (s := s) (by simpa using h.1 0 (by omega))
    rcases append_cases c .rans (s.reState.extractLsb' 0 8) s with ⟨hl, hr⟩ | ⟨hl, hr⟩ <;> rw [hr] at hstep
    · have hlen := (appended_spec hc (s.reState.extractLsb' 0 8) hl).1
      have hre := (append_rans_frame hr).2
      rw [Res.bind_ok, hre] at hstep
      rw [hstep]
      have := ih (fuel := fuel) (s := (s.appended .rans (s.reState.extractLsb' 0 8)).setReState (s.reState >>> 8))
        (by omega) h.shiftRight
      rw [State.setReState_len, hlen] at this
      rcases this with ⟨hok, hroom⟩ | ⟨href, -, hroom⟩
      · exact .inl ⟨hok, by omega⟩
      · exact .inr ⟨href, by omega, by omega⟩
    · exact .inr ⟨hstep, by omega, by omega⟩

/-- From `s` to `t` renormalise-out has shifted `k` bytes of the state out, low byte first. -/
structure Emitted (k : Nat) (s t : State) : Prop where
  state : t.reState.toNat = s.reState.toNat / 256 ^ k
  len : t.len .rans = s.len .rans + k
  bytes : ∀ j, j < k → (t.byte .rans (s.len .rans + j)).toNat = s.reState.toNat / 256 ^ j % 256
  kept : ∀ a, a < s.len .rans ∨ s.len .rans + k ≤ a → t.byte .rans a = s.byte .rans a
  frame : t.withoutEncoder = s.withoutEncoder

theorem Emitted.zero (s : State) : Emitted 0 s s where
  state := by simp
  len := rfl
  bytes j hj := absurd hj (by omega)
  kept _ _ := rfl
  frame := rfl

theorem Emitted.bytesKept {k : Nat} {s t : State} (h : Emitted k s t) :
    BytesKeptOutside .rans (s.len .rans) (s.len .rans + k) s t := by
  intro x a hx
  by_cases hr : x = .rans
  · subst hr
    exact h.kept a (hx.resolve_left (absurd rfl))
  · exact State.byte_congr (buf_of_withoutEncoder h.frame hr) a

/-- With no byte to shift out, or with room for them, renormalise-out of `RE.PUT` is accepted. -/
theorem emitBytes_emitted {c : Config} {bound k : Nat} {s : State} (hk : k ≤ 4) (h : IsShiftCount bound s.reState.toNat k)
    (hroom : k = 0 ∨ (c.Bounded ∧ s.len .rans + k ≤ capacity c .rans)) :
    ∃ t, emitBytes c bound 4 s = .ok () t ∧ Emitted k s t := by
  rcases hroom with rfl | ⟨hc, hroom⟩
  · exact ⟨s, emitBytes_done (by simpa using h.2), Emitted.zero s⟩
  · rcases emitBytes_cases hc hk h with ⟨⟨t, ht⟩, -⟩ | ⟨-, -, hfull⟩
    · have hb : 1 ≤ bound := Nat.one_le_of_lt h.2
      obtain ⟨l, -, h1, h2, hstate, hlen, hbytes, hkept, -⟩ := emitBytes_spec hc ht (emitBytes_fuel s.reState hb)
      obtain rfl : k = l := h.unique ⟨h1, h2⟩
      exact ⟨t, ht, hstate, hlen, hbytes, hkept, emitBytes_frame ht⟩
    · omega

/-! ### `RE.PUT` -/

section RePut
variable {s : State} {sym : Byte} (hre : s.isValid .re = true) (hss : s.isValid .ss = true)
include hre hss

/-- With the units ready and a symbol of the model, `RE.PUT` shifts bytes out and then updates the state. -/
theorem rePut_ready {c : Config} (hf : 1 ≤ s.freq sym) :
    rePut c sym s = (emitBytes c (s.freq sym * 2 ^ c.encBoundShift) 4 s).bind fun _ t =>
      .ok () (t.setReState (BitVec.ofNat 32 (encUpdate t.reState.toNat (s.freq sym) (s.cumAt sym.toNat)))) := by
  have hf0 : s.freq sym ≠ 0 := by omega
  rw [rePut, checked_pass (by simp [hre, hss]) (by simp)]
  exact if_neg hf0

/-- A symbol of frequency 0 raises before anything is touched (42_rans R163). -/
theorem rePut_zeroFreq {c : Config} (hf : s.freq sym = 0) : rePut c sym s = .raised .zeroFreq s := by
  rw [rePut, checked_pass (by simp [hre, hss]) (by simp)]
  exact if_pos hf

end RePut

/-- An update of a state below the bound fits the register for the parameters of 42_rans R180. -/
theorem encUpdate_fits {s : State} {sym : Byte} (hm : s.ModelOk) (hshift : s.cfg.encBoundShift + 12 ≤ 32) {x : Nat}
    (hf : 1 ≤ s.freq sym) (hx : x < s.freq sym * 2 ^ s.cfg.encBoundShift) :
    encUpdate x (s.freq sym) (s.cumAt sym.toNat) < 2 ^ 32 := by
  calc encUpdate x (s.freq sym) (s.cumAt sym.toNat)
      < 2 ^ s.cfg.encBoundShift * probScale := encUpdate_lt hf (hm.freq_le sym) hx
    _ = 2 ^ (s.cfg.encBoundShift + 12) := (Nat.pow_add 2 _ 12).symm
    _ ≤ 2 ^ 32 := Nat.pow_le_pow_right (by decide) hshift

/-- Settles O26: the number of bytes is fixed by the state (`exists_shiftCount`), renormalise-out appends them or refuses
(`emitBytes_emitted`, `emitBytes_cases`), and the update of what is left fits (`encUpdate_fits`). -/
theorem rePutResult : Obligations.RePutResult := by
  intro s hs
  rw [← State.argSymbol_eq]
  have hbody : bodyOf .rePut s = rePut s.cfg s.argSymbol s := rfl
  refine ⟨fun hre hss hf => ?_, fun hre hss hf => ?_, fun h => ?_⟩
  · rw [rePut_ready hre hss hf] at hbody
    obtain ⟨k, hk, hcount⟩ := exists_shiftCount s.reState (bound := s.freq s.argSymbol * 2 ^ s.cfg.encBoundShift)
      (Nat.mul_pos hf (Nat.two_pow_pos _))
    refine ⟨k, hk, hcount.1, hcount.2, fun hroom => ?_, fun hc h1 hfull => ?_⟩
    · obtain ⟨u, hu, hemit⟩ := emitBytes_emitted hk hcount hroom
      rw [hu, Res.bind_ok, hemit.state] at hbody
      refine ⟨_, exec_of_ok (i := .rePut) (by decide) hs hbody, rfl, hemit.len, hemit.bytes, rfl, fun hm hshift => ?_, ?_,
        hemit.bytesKept⟩
      · exact (BitVec.toNat_ofNat _ 32).trans (Nat.mod_eq_of_lt (encUpdate_fits hm hshift hf hcount.2))
      · refine ((unchanged_of_withoutEncoder hemit.frame).mono (by decide)).trans ?_
        exact (unchanged_setReState u (by decide) _).trans (unchanged_status _ (by decide) _)
    · rcases emitBytes_cases hc hk hcount with ⟨-, hroom⟩ | ⟨href, -, -⟩
      · omega
      · rw [href, Res.bind_refused] at hbody
        exact exec_of_refused (i := .rePut) (by decide) hs hbody
  · exact exec_of_raised (i := .rePut) (k := .zeroFreq) (by decide) hs (rePut_zeroFreq hre hss hf)
  · refine exec_of_refused (i := .rePut) (by decide) hs (hbody.trans (checked_refuses ?_))
    rcases h with h | h <;> simp [h]

/-! ### `RE.FLUSH` -/

/-- Settles O27: an open encoder with room hands its state over (`reFlush_encoder`), and four bytes that do not fit are refused
(`appendList_full`). -/
theorem reFlushResult : Obligations.ReFlushResult := by
  intro s hs
  have hbody : bodyOf .reFlush s = reFlush s.cfg s := rfl
  refine ⟨fun hre hc hroom => ?_, fun hre => ?_, fun hc hfull => ?_⟩
  · obtain ⟨u, hu, hlen, -, hfield, hframe⟩ := reFlush_encoder hc hre hroom
    have ht := exec_of_ok (i := .reFlush) (by decide) hs (hbody.trans hu)
    obtain ⟨hfields, hkept⟩ := exec_storesIn (sp := .rans) (n := s.len .rans) hc ht (.inr (by decide)) (by decide)
      (fun x => by cases x <;> rfl)
    have hvalid : u.valid = s.valid &&& 0xFD#8 := by
      rw [hframe]
      rfl
    have hnumber : u.number32 .rans (s.len .rans) = s.reState.toNat := by
      rw [← State.field32_toNat, hfield]
    exact ⟨_, ht, rfl, hvalid, hlen, hnumber, hfields, fun x a h => hkept x a (hlen ▸ h)⟩
  · exact exec_of_refused (i := .reFlush) (by decide) hs (hbody.trans (checked_refuses hre))
  · refine exec_of_refused (i := .reFlush) (by decide) hs (hbody.trans ?_)
    by_cases hre : s.isValid .re = true
    · rw [reFlush, checked_pass hre (by simp), appendList_full hc (bs := bytesLe32 s.reState) (by simp [bytesLe32]) hfull,
        Res.bind_refused]
    · exact checked_refuses (by simpa using hre)

end Sys2Proof.Machine


/-! PROOFS. One step of the parser (spec 43_lz77 R192 to R196; 20_memory R70). -/

namespace Sys2Proof.Machine

/-! ### What the search answers -/

/-- The longest candidate, the earliest among equals, is the search's answer (43_lz77 R195). -/
theorem searchAt_eq {s : State} {i l : Nat} (hp : s.lzP.toNat ≤ s.len .inp) (h : s.Candidate i l) (h1 : 1 ≤ l)
    (hmax : ∀ i' l', s.Candidate i' l' → l' ≤ l) (hfirst : ∀ i' l', i' < i → s.Candidate i' l' → l' < l) :
    searchAt (s.byte .inp) (s.len .inp) s.lzP.toNat = (l, i) := by
  obtain ⟨hle, hbest⟩ := searchAt_spec s
  generalize searchAt (s.byte .inp) (s.len .inp) s.lzP.toNat = best at hle hbest ⊢
  have hl := hle i l h
  obtain ⟨hcand, hearly⟩ := hbest (h1.trans hl) hp
  have hlen : best.1 = l := Nat.le_antisymm (hmax _ _ hcand) hl
  have hstart : best.2 = i := by
    rcases Nat.lt_trichotomy best.2 i with hlt | heq | hlt
    · have := hfirst _ _ hlt hcand
      omega
    · exact heq
    · have := hearly i l hlt h
      omega
  exact Prod.ext hlen hstart

/-- Where every candidate is shorter than a match, so is the search's answer. -/
theorem searchAt_short {s : State} (hp : s.lzP.toNat ≤ s.len .inp) (h : ∀ i l, s.Candidate i l → l < 3) :
    (searchAt (s.byte .inp) (s.len .inp) s.lzP.toNat).1 < minMatch := by
  obtain ⟨-, hbest⟩ := searchAt_spec s
  by_cases h1 : 1 ≤ (searchAt (s.byte .inp) (s.len .inp) s.lzP.toNat).1
  · exact h _ _ (hbest h1 hp).1
  · exact lt_of_lt_of_le (Nat.lt_of_not_le h1) (by decide)

/-! ### Putting a token out -/

/-- A token's bytes to their buffer, its flag bit to the BitWriter, and the position `n` bytes on (43_lz77 R192, R193). -/
def putToken (c : Config) (sp : Space) (bs : List Byte) (flag : Bool) (n : Word) (s : State) : Res Unit :=
  (appendList c sp bs s).bind fun _ s => (bwWbit c flag s).bind fun _ s => .ok () (s.setLzP (s.lzP + n))

theorem lzEmit_eq_putToken (c : Config) (p : Nat) (best : Nat × Nat) (s : State) :
    lzEmit c p best s =
      if minMatch ≤ best.1 then
        putToken c .mtch (bytesLe16 (BitVec.ofNat 16 (p - best.2)) ++ [BitVec.ofNat 8 best.1]) true (BitVec.ofNat 32 best.1) s
      else putToken c .lit [s.byte .inp p] false 1#32 s := by
  rw [lzEmit, append_eq_appendList]
  rfl

/-- What the flag bit of a token depends on: the token's own bytes are no part of it. -/
theorem setBuf_token_flag {c : Config} {sp : Space} (hsp : sp = .lit ∨ sp = .mtch) (b : Buf) (s : State) :
    bwOpen c (s.setBuf sp b) = bwOpen c s ∧ (s.setBuf sp b).bwCnt = s.bwCnt ∧
      (s.setBuf sp b).len .flags = s.len .flags := by
  rcases hsp with rfl | rfl <;> exact ⟨rfl, rfl, rfl⟩

/-- Accepted appends touch their buffer alone. -/
theorem appendList_frame {c : Config} {sp : Space} {bs : List Byte} {s t : State} (h : appendList c sp bs s = .ok () t) :
    t = s.setBuf sp (t.buf sp) := by
  induction bs generalizing s with
  | nil =>
    cases h
    exact (State.setBuf_self _ _).symm
  | cons b bs ih =>
    obtain ⟨⟨⟩, u, hu, ht⟩ := Res.bind_eq_ok.mp h
    rw [ih ht, append_frame hu]
    simp

section PutToken
variable {c : Config} {sp : Space} {bs : List Byte} {flag : Bool} {n : Word} {s : State}

/-- With room for the bytes and the flag bit the token is put out. -/
theorem putToken_ok (hc : c.Bounded) (hsp : sp = .lit ∨ sp = .mtch) (ho : bwOpen c s = true) (hw : s.WriterInv)
    (hflag : s.bwCnt ≠ 7#3 ∨ s.len .flags < capacity c .flags) (hroom : s.len sp + bs.length ≤ capacity c sp) :
    ∃ t, putToken c sp bs flag n s = .ok () t ∧ t.lzP = s.lzP + n ∧ t.writerBits = s.writerBits ++ [flag] ∧
      t.len sp = s.len sp + bs.length ∧ (∀ k, (hk : k < bs.length) → t.byte sp (s.len sp + k) = bs[k]) ∧
      ∀ x, x = .lit ∨ x = .mtch → x ≠ sp → t.buf x = s.buf x := by
  obtain ⟨u, hu⟩ := appendList_ok hc hroom
  obtain ⟨hframe, hlen, hbytes, -, -⟩ := appendList_spec hc hu
  obtain ⟨b, rfl⟩ : ∃ b, u = s.setBuf sp b := ⟨_, hframe⟩
  obtain ⟨hopen, hcnt, hflags⟩ := setBuf_token_flag hsp b s
  obtain ⟨-, hwriter⟩ := setBuf_token_writer hsp b s
  obtain ⟨t, ht, -, -, hbits, hlit, hmtch, hlzP⟩ := flag_and_advance hc (u := s.setBuf sp b) flag n
    (by rw [hopen, ho]) (by simpa [State.WriterInv] using hw)
    (by rw [hcnt, hflags]; exact fun h7 => hflag.resolve_left (not_not_intro h7))
  have hbuf : ∀ x, x = .lit ∨ x = .mtch → t.buf x = (s.setBuf sp b).buf x := by
    rintro x (rfl | rfl)
    · exact hlit
    · exact hmtch
  refine ⟨t, by rw [putToken, hu, Res.bind_ok, ht], ?_, hwriter ▸ hbits, ?_, fun k hk => ?_, fun x hx hne => ?_⟩
  · rw [hlzP, State.setBuf_lzP]
  · rw [State.len_congr (hbuf sp hsp), hlen]
  · rw [State.byte_congr (hbuf sp hsp), hbytes k hk]
  · rw [hbuf x hx, State.setBuf_buf_ne hne]

/-- A token whose flag bit the BitWriter does not take is refused. -/
theorem putToken_closed (hsp : sp = .lit ∨ sp = .mtch)
    (h : bwOpen c s = false ∨ (s.bwCnt = 7#3 ∧ capacity c .flags ≤ s.len .flags)) :
    putToken c sp bs flag n s = .refused := by
  have hquiet := appendList_quiet c sp bs s
  rw [putToken]
  cases hu : appendList c sp bs s with
  | ok a u =>
    obtain ⟨b, rfl⟩ : ∃ b, u = s.setBuf sp b := ⟨_, appendList_frame hu⟩
    obtain ⟨hopen, hcnt, hflags⟩ := setBuf_token_flag hsp b s
    have hbit : bwWbit c flag (s.setBuf sp b) = .refused := by
      rcases h with ho | ⟨h7, hl⟩
      · exact bwWbit_closed (by rw [hopen, ho])
      · exact bwWbit_no_room (by rw [hcnt, h7]) (by rw [hflags]; exact hl)
    rw [Res.bind_ok, hbit, Res.bind_refused]
  | raised k u => exact (hu ▸ hquiet : (Res.raised k u : Res Unit).Quiet).elim
  | refused => rfl

end PutToken

/-! ### `LZ.STEP` -/

section LzStep
variable {s : State} (hlz : s.isValid .lz = true) (hp : s.lzP.toNat < s.len .inp) (hn : s.len .inp ≤ s.cfg.nMax)
include hlz hp hn

/-- Once its checks pass, `LZ.STEP` puts out what the search found. -/
theorem lzStep_ready : bodyOf .lzStep s = lzEmit s.cfg s.lzP.toNat (searchAt (s.byte .inp) (s.len .inp) s.lzP.toNat) s :=
  (lzStep_eq s.cfg s).trans (checked_pass (by simp [hlz, hp]) (by simpa [capacity] using hn))

/-- A step whose search finds none puts the byte at the position out and a flag 0. -/
theorem lzStep_of_short (h : ∀ i l, s.Candidate i l → l < 3) :
    bodyOf .lzStep s = putToken s.cfg .lit [s.byte .inp s.lzP.toNat] false 1#32 s := by
  rw [lzStep_ready hlz hp hn, lzEmit_eq_putToken, if_neg (Nat.not_le_of_lt (searchAt_short hp.le h))]

end LzStep

/-- A field that did not change need not be listed. -/
theorem Unchanged.drop {but but' : List Field} {g : Field} {s t : State} (h : Unchanged but s t) (hg : g.Same s t)
    (hb : ∀ f ∈ but, f = g ∨ f ∈ but') : Unchanged but' s t := by
  intro f hf
  by_cases hfg : f = g
  · exact hfg ▸ hg
  · exact h f fun hmem => (hb f hmem).elim hfg hf

/-- The bytes of a match record, as numbers (30_encoding R92). -/
theorem record_toNat {d l : Nat} (hd : d < 2 ^ 16) (hl : l < 2 ^ 8) :
    ((BitVec.ofNat 16 d).extractLsb' 0 8).toNat + 256 * ((BitVec.ofNat 16 d).extractLsb' 8 8).toNat = d ∧
      (BitVec.ofNat 8 l).toNat = l := by
  rw [byte_of_half, byte_of_half, BitVec.toNat_ofNat, BitVec.toNat_ofNat]
  omega

/-- A position within the input advances without wrapping. -/
theorem advance_toNat {p : Word} {n : Nat} (h : p.toNat + n < 2 ^ 32) : (p + BitVec.ofNat 32 n).toNat = p.toNat + n := by
  rw [BitVec.toNat_add, BitVec.toNat_ofNat]
  omega

section Tokens
variable {s : State} (hc : s.cfg.Bounded) (hn : s.len .inp ≤ s.cfg.nMax) (ho : bwOpen s.cfg s = true) (hw : s.WriterInv)
  (hflag : s.bwCnt ≠ 7#3 ∨ s.len .flags < capacity s.cfg .flags)
include hc hn ho hw hflag

/-- The token of a candidate of at least three bytes: its record holds the distance and the length (43_lz77 R192, R196). -/
theorem putToken_match {i l : Nat} (hcand : s.Candidate i l) (hroom : s.len .mtch + 3 ≤ capacity s.cfg .mtch) :
    ∃ t, putToken s.cfg .mtch (bytesLe16 (BitVec.ofNat 16 (s.lzP.toNat - i)) ++ [BitVec.ofNat 8 l]) true
        (BitVec.ofNat 32 l) s = .ok () t ∧
      t.lzP.toNat = s.lzP.toNat + l ∧ t.len .mtch = s.len .mtch + 3 ∧ t.lit = s.lit ∧
      (t.byte .mtch (s.len .mtch)).toNat + 256 * (t.byte .mtch (s.len .mtch + 1)).toNat = s.lzP.toNat - i ∧
      (t.byte .mtch (s.len .mtch + 2)).toNat = l ∧ t.writerBits = s.writerBits ++ [true] := by
  obtain ⟨-, hdist, -, hlen, hend⟩ := hcand.bounds
  have hN := hc.2
  have hwindow : window = 32768 := rfl
  have hmaxMatch : maxMatch = 255 := rfl
  obtain ⟨hrecDist, hrecLen⟩ := record_toNat (d := s.lzP.toNat - i) (l := l) (by omega) (by omega)
  obtain ⟨t, ht, hlzP, hbits, hgrown, hbytes, hkept⟩ := putToken_ok hc (.inr rfl) ho hw hflag
    (bs := bytesLe16 (BitVec.ofNat 16 (s.lzP.toNat - i)) ++ [BitVec.ofNat 8 l]) (flag := true) (n := BitVec.ofNat 32 l) hroom
  have h0 := hbytes 0 (by simp)
  rw [Nat.add_zero] at h0
  refine ⟨t, ht, by rw [hlzP, advance_toNat (by omega)], hgrown, hkept .lit (.inl rfl) (by decide), ?_, ?_, hbits⟩
  · rw [h0, hbytes 1 (by simp)]
    exact hrecDist
  · rw [hbytes 2 (by simp)]
    exact hrecLen

/-- The token of the byte at the position (43_lz77 R192). -/
theorem putToken_lit (hp : s.lzP.toNat < s.len .inp) (hroom : s.len .lit < capacity s.cfg .lit) :
    ∃ t, putToken s.cfg .lit [s.byte .inp s.lzP.toNat] false 1#32 s = .ok () t ∧
      t.lzP.toNat = s.lzP.toNat + 1 ∧ t.len .lit = s.len .lit + 1 ∧ t.mtch = s.mtch ∧
      t.byte .lit (s.len .lit) = s.byte .inp s.lzP.toNat ∧ t.writerBits = s.writerBits ++ [false] := by
  have hN := hc.2
  obtain ⟨t, ht, hlzP, hbits, hgrown, hbytes, hkept⟩ := putToken_ok hc (.inl rfl) ho hw hflag
    (bs := [s.byte .inp s.lzP.toNat]) (flag := false) (n := 1#32) hroom
  exact ⟨t, ht, by rw [hlzP, advance_toNat (by omega)], hgrown, hkept .mtch (.inr rfl) (by decide), hbytes 0 (by simp), hbits⟩

end Tokens

/-- Settles O32: the clauses' candidate is the search's answer (`searchAt_eq`, `searchAt_short`), which is put out as a token
(`putToken_match`, `putToken_lit`) or refused for want of room (`putToken_closed`, `appendList_full`). -/
theorem lzStepResult : Obligations.LzStepResult := by
  intro s hs
  have hexec {t : State} (h : bodyOf .lzStep s = .ok () t) := exec_of_ok (by decide) hs h
  have hrefuse (h : bodyOf .lzStep s = .refused) := exec_of_refused (by decide) hs h
  have hfields {t : State} (hc : s.cfg.Bounded) (h : exec .lzStep s = .next t) : Unchanged (writesOf .lzStep) s t :=
    (frameOfCommandsThatStore .lzStep s t hc (.inr (by decide)) h).1
  refine ⟨fun hlz hp hn hc ho hw hflag => ⟨fun i l hcand h3 hmax hfirst hroom => ?_, fun hshort hroom => ?_⟩,
    fun hlz hp hn => ⟨fun hclosed => hrefuse ?_, fun i l hcand h3 hc hfull => hrefuse ?_, fun hshort hfull => hrefuse ?_⟩,
    fun h => hrefuse ((lzStep_eq s.cfg s).trans (checked_refuses ?_))⟩
  · obtain ⟨t, ht, hpos, hlen, hlit, hdist, hrec, hbits⟩ := putToken_match hc hn ho hw hflag hcand hroom
    have hbody := lzStep_ready hlz hp hn
    rw [searchAt_eq hp.le hcand (by omega) hmax hfirst, lzEmit_eq_putToken, if_pos h3, ht] at hbody
    exact ⟨_, hexec hbody, rfl, hpos, hlen, State.len_congr (sp := .lit) hlit, hdist, hrec, hbits,
      (hfields hc (hexec hbody)).drop (g := .len .lit) (congrArg Buf.len hlit) (by decide)⟩
  · obtain ⟨t, ht, hpos, hlen, hmtch, hbyte, hbits⟩ := putToken_lit hc hn ho hw hflag hp hroom
    have hbody := (lzStep_of_short hlz hp hn hshort).trans ht
    exact ⟨_, hexec hbody, rfl, hpos, hlen, State.len_congr (sp := .mtch) hmtch, hbyte, hbits,
      (hfields hc (hexec hbody)).drop (g := .len .mtch) (congrArg Buf.len hmtch) (by decide)⟩
  · rw [lzStep_ready hlz hp hn, lzEmit_eq_putToken]
    split
    · exact putToken_closed (.inr rfl) hclosed
    · exact putToken_closed (.inl rfl) hclosed
  · have hlong := h3.trans ((searchAt_spec s).1 i l hcand)
    rw [lzStep_ready hlz hp hn, lzEmit_eq_putToken, if_pos hlong, putToken,
      appendList_full hc (by simp) (by simpa using hfull), Res.bind_refused]
  · rw [lzStep_of_short hlz hp hn hshort, putToken, appendList, append_full _ hfull, Res.bind_refused, Res.bind_refused]
  · simpa [or_iff_not_imp_left] using h

end Sys2Proof.Machine


/-! PROOFS. The token `MATCH` (spec 45_orchestration R240, R251; 20_memory R82). -/

namespace Sys2Proof.Machine

/-- A whole record at the cursor behind a flag bit 1 is the token it encodes (30_encoding R90, R92). -/
theorem tokenHere_match {s : State} {dist : Half} {len : Byte} (hflag : s.flagsBit s.brPos.toNat = true)
    (hrecord : s.decMpos.toNat + 3 ≤ s.len .mtch)
    (hdist : (s.byte .mtch s.decMpos.toNat).toNat + 256 * (s.byte .mtch (s.decMpos.toNat + 1)).toNat = dist.toNat)
    (hlen : s.byte .mtch (s.decMpos.toNat + 2) = len) :
    decodeToken (s.flagsBit s.brPos.toNat) s.recordHere = .ok (.mtch dist len, []) := by
  have hd : le16 (s.byte .mtch s.decMpos.toNat) (s.byte .mtch (s.decMpos.toNat + 1)) = dist :=
    BitVec.eq_of_toNat_eq ((le16_toNat _ _).trans hdist)
  rw [hflag, State.decode_match hrecord, hd, hlen]

/-- The copy of a match whose distance is between 1 and `OUT_LEN`, with room: the record is consumed, and each byte appended is
the one `dist` before it (45_orchestration R251, 20_memory R82). -/
theorem matchToken_ok {c : Config} (hc : c.Bounded) {dist : Half} {len : Byte} {s : State} (h1 : 1 ≤ dist.toNat)
    (hback : dist.toNat ≤ s.len .out) (hroom : s.len .out + len.toNat ≤ capacity c .out) :
    ∃ t, matchToken c dist len s = .ok () t ∧ t.brPos = s.brPos ∧ t.decMpos = s.decMpos + 3#32 ∧
      t.len .out = s.len .out + len.toNat ∧
      ∀ k, k < len.toNat → t.byte .out (s.len .out + k) = t.byte .out (s.len .out + k - dist.toNat) := by
  have hvalid : ¬ (dist = 0#16 ∨ s.len .out < dist.toNat) := by
    rintro (rfl | h)
    · simp at h1
    · omega
  obtain ⟨t, ht⟩ := copyOut_ok hc (n := len.toNat) (src := s.len .out - dist.toNat)
    (s := s.setDecMpos (s.decMpos + 3#32)) (by simpa using hroom)
  obtain ⟨hframe, hlen, hnew, -⟩ := copyOut_spec hc (by rw [State.setDecMpos_len]; omega) ht
  rw [State.setDecMpos_len] at hlen hnew
  refine ⟨t, ?_, ?_, ?_, hlen, fun k hk => ?_⟩
  · rw [← ht]
    exact if_neg hvalid
  · rw [hframe, State.setBuf_brPos, State.setDecMpos_brPos]
  · rw [hframe, State.setBuf_decMpos, State.setDecMpos_decMpos]
  · rw [hnew k hk]
    congr 1
    omega

/-- Settles O41: the token at the cursor is the `MATCH`, so `DEC.STEP` runs it (`decStepRunsTheToken`), and its copy is accepted
(`matchToken_ok`). -/
theorem matchResult : Obligations.MatchResult := by
  intro s dist len hs hc hready hmore hflags hmtch hrans hbit hrecord hdist hlen h1 hback hroom
  have htoken := tokenHere_match hbit hrecord hdist hlen
  have hstep : exec .decStep s = exec (.matchTok dist len) s :=
    decStepRunsTheToken s (.mtch dist len) [] (by rw [State.tokenHere, State.flagHere_eq, htoken])
  have hfits : ∀ sp ∈ [Space.flags, .mtch, .rans, .out], s.len sp ≤ capacity s.cfg sp := by
    have hout : s.len .out ≤ capacity s.cfg .out := by omega
    simp [hflags, hmtch, hrans, hout]
  obtain ⟨p, hp, hbody⟩ := decStep_ready hc hready (decide_eq_true hmore) hfits
  have hinside : s.brPos.toNat < 8 * s.len .flags := of_decide_eq_true (Bool.and_eq_true_iff.mp hbit).1
  rw [if_pos hinside] at hp
  rw [htoken] at hbody
  obtain ⟨t, ht, hbr, hpos, hlen', hcopy⟩ := matchToken_ok hc (s := s.setBrPos p) h1 (by simpa using hback)
    (by simpa using hroom)
  rw [State.setBrPos_len] at hlen' hcopy
  have hmpos : t.decMpos.toNat = s.decMpos.toNat + 3 := by
    have := capacity_lt hc .mtch
    rw [hpos, State.setBrPos_decMpos, advance_toNat (by omega)]
  have hbr' : t.brPos.toNat = s.brPos.toNat + 1 := by rw [hbr, State.setBrPos_brPos, hp]
  have hdec := exec_of_ok (i := .decStep) (by decide) hs (hbody.trans ht)
  have hexec := hstep.symm.trans hdec
  obtain ⟨hfields, hkept⟩ := exec_storesIn (sp := .out) (n := s.len .out) hc hexec (.inl ⟨_, _, rfl⟩) (by simp)
    (fun x => by cases x <;> rfl)
  exact ⟨_, hexec, hdec, rfl, hbr', hmpos, hlen', hcopy, hfields, fun x a h => hkept x a (hlen' ▸ h)⟩

end Sys2Proof.Machine


/-! PROOFS. The encodings (spec 30_encoding): the command codes, the tokens, the packing of a token listing. -/

namespace Sys2Proof.Machine

/-! ### Command codes (30_encoding R100, R104) -/

/-- A row of the table of codes is the row of its command's own code. -/
theorem encode_of_mem_cmdTable : ∀ row ∈ cmdTable, encode row.2 = .cmd row.1 := by decide

/-- Each code of R100 decodes to its command. -/
theorem decodeCmd_of_encode {code : Byte} {i : Instr} (h : encode i = .cmd code) : decodeCmd code = .ok i := by
  cases i <;> cases h <;> rfl

/-- An instruction that is a command decodes to itself. -/
theorem decode_command {code : Byte} {i : Instr} (h : encode i = .cmd code) : decode (encode i) = .ok i := by
  rw [h]
  exact decodeCmd_of_encode h

/-- Whatever the command decoder answers stands in the table of codes. -/
theorem mem_cmdTable_of_decodeCmd {code : Byte} {i : Instr} (h : decodeCmd code = .ok i) : (code, i) ∈ cmdTable := by
  unfold decodeCmd at h
  split at h
  case h_1 row hfind =>
    cases h
    have hcode : row.1 = code := by simpa using List.find?_some hfind
    exact hcode ▸ List.mem_of_find?_eq_some hfind
  case h_2 => cases h

/-- Settles O2: the decoder answers rows of the table only (`mem_cmdTable_of_decodeCmd`), each of which is its command's own code,
and finds each code again (`decodeCmd_of_encode`). -/
theorem commandCodesExact : Obligations.CommandCodesExact := fun _ _ =>
  ⟨fun h => encode_of_mem_cmdTable _ (mem_cmdTable_of_decodeCmd h), decodeCmd_of_encode⟩

/-- A code that no command has is rejected (30_encoding R104). -/
theorem decodeCmd_of_reserved {code : Byte} (h : ∀ i, encode i ≠ .cmd code) : ∃ e, decodeCmd code = .error e := by
  cases hd : decodeCmd code with
  | ok i => exact absurd ((commandCodesExact code i).mp hd) (h i)
  | error e => exact ⟨e, rfl⟩

/-- Settles O6: the decoder rejects the code (`decodeCmd_of_reserved`), so the step is the issue and then a refusal
(`step_reserved`), and both write `STATUS` whole. -/
theorem reservedCommandRefused : Obligations.ReservedCommandRefused := by
  intro s v rest hp hreserved
  obtain ⟨e, he⟩ := decodeCmd_of_reserved hreserved
  rw [step_reserved hp he, State.takeRefusal_eq, State.issue, State.setDone_err]
  rfl

/-! ### Tokens (30_encoding R90, R92, R97) -/

/-- A token is read back from its flag bit and its record, and the bytes behind the record are left over. -/
@[simp] theorem decodeToken_encodeToken (t : Token) (rest : List Byte) :
    decodeToken (encodeToken t).1 ((encodeToken t).2 ++ rest) = .ok (t, rest) := by
  cases t with
  | lit => rfl
  | mtch dist len => exact congrArg (fun d => Except.ok (Token.mtch d len, rest)) (le16_bytesLe16 dist)

/-- A token instruction decodes to itself. -/
theorem decode_token (t : Token) : decode (encode t.instr) = .ok t.instr := by
  have hwords : encode t.instr = .token (encodeToken t).1 ((encodeToken t).2 ++ []) := by cases t <;> rfl
  rw [hwords, decode, decodeToken_encodeToken]

/-- Settles O3: a token is read back from its words (`decode_token`), a command from its code (`decode_command`). -/
theorem decodeEncode : Obligations.DecodeEncode := by
  intro i _
  cases i with
  | lit => exact decode_token .lit
  | matchTok dist len => exact decode_token (.mtch dist len)
  | _ => exact decode_command rfl

/-- Settles O1: each of the words is the encoding of its instruction (`decodeEncode`), and `0x7F` is in no row of the table. -/
theorem fewWordsDecode : Obligations.FewWordsDecode := by
  have hdec {w : Words} (i : Instr) (hi : WellFormed i) (hw : encode i = w) : decode w = .ok i := hw ▸ decodeEncode i hi
  exact ⟨hdec .reset rfl rfl, hdec .bwWbits rfl rfl, hdec .brRbits rfl rfl, hdec .ssCount rfl rfl, hdec .rePut rfl rfl,
    hdec .rdGet rfl rfl, hdec .lzStep rfl rfl, hdec .ctUnpack rfl rfl, hdec .decRun rfl rfl, hdec .lit rfl rfl,
    hdec (.matchTok 3#16 3#8) (by decide) (by decide), hdec (.matchTok 300#16 255#8) (by decide) (by decide), by decide⟩

/-! ### Token listings (30_encoding R91, R96, R97, R106) -/

/-- The flag bit of position `8 * q + k` in a packed byte is the bit put there (30_encoding R91). -/
theorem flagBit_packByte (f : Nat → Bool) (j : Nat) : flagBit (packByte f) j = f (j % 8) := by
  have hlt : j % 8 < 8 := Nat.mod_lt _ (by decide)
  unfold flagBit packByte
  generalize j % 8 = k at hlt ⊢
  simp only [BitVec.getLsbD_append, BitVec.getLsbD_ofBool]
  interval_cases k <;> simp

/-- Every flag bit packed is read back at its position (30_encoding R91, R96). -/
theorem flagAt_packFlags {bits : List Bool} {j : Nat} (hj : j < bits.length) :
    flagAt (packFlags bits) j = bits[j] := by
  have hq : j / 8 < (packFlags bits).length := by simp [packFlags]; omega
  rw [flagAt, List.getD_eq_getElem _ _ hq]
  simp only [packFlags, List.getElem_map, List.getElem_range, flagBit_packByte, Nat.div_add_mod]
  exact List.getD_eq_getElem _ _ hj

/-- The decoder reads a listing back from the concatenated records, wherever its flag bits stand: the cursors of the two
regions move independently (30_encoding R97). -/
theorem disassemble_of_flags (flags : List Byte) (tokens : List Token) (j : Nat)
    (hflags : ∀ k, (hk : k < tokens.length) → flagAt flags (j + k) = (encodeToken tokens[k]).1) :
    disassemble flags tokens.length j (tokens.map fun t => (encodeToken t).2).flatten = .ok tokens := by
  induction tokens generalizing j with
  | nil => rfl
  | cons t ts ih =>
    have hflag : flagAt flags j = (encodeToken t).1 := hflags 0 (by simp)
    have hrest := ih (j + 1) fun k hk => by
      rw [Nat.add_assoc, Nat.add_comm 1]
      exact hflags (k + 1) (by simpa using hk)
    simp only [List.length_cons, List.map_cons, List.flatten_cons, disassemble, hflag, decodeToken_encodeToken, hrest]

/-- Settles O4: the packed flag of each token stands at its position (`flagAt_packFlags`), so the listing is read back
(`disassemble_of_flags`). -/
theorem tokenListingReadsBack : Obligations.TokenListingReadsBack := by
  intro tokens
  refine disassemble_of_flags _ tokens 0 fun k hk => ?_
  rw [Nat.zero_add, assemble, flagAt_packFlags (by simpa using hk), List.getElem_map]

end Sys2Proof.Machine


/-! PROOFS. The BitReader's commands and the bit order property (spec 40_bitio R122, R126 to R130), and the commands with one effect in
every state. -/

namespace Sys2Proof.Machine

/-! ### Commands with one effect -/

theorem bwInit_eq (s : State) :
    bwInit s = { s with bwCur := 0#8, bwCnt := 0#3, bwFlushed := false, flags := { s.flags with len := 0#32 } } := rfl

theorem reInit_eq (c : Config) (s : State) :
    reInit c s = { s with
      reState := BitVec.ofNat 32 c.ransL, rans := { s.rans with len := 0#32 }, valid := s.valid ||| 0x02#8 } := rfl

theorem lzInit_eq (s : State) :
    lzInit s = { s with
      lzP := 0#32, lit := { s.lit with len := 0#32 }, mtch := { s.mtch with len := 0#32 }, valid := s.valid ||| 0x10#8 } := rfl

/-- Settles O14: each body is one assignment, which is the end of the command (`exec_of_ok`); only `BR.INIT` has a check to pass. -/
theorem plainCommands : Obligations.PlainCommands := by
  intro s hs
  refine ⟨exec_of_ok (i := .bwInit) (by decide) hs (congrArg (Res.ok ()) (bwInit_eq s)),
    exec_of_ok (i := .bwBytes) (t := { s with result := s.flags.len }) (by decide) hs rfl, fun hl => ?_, fun hl => ?_,
    exec_of_ok (i := .reInit) (by decide) hs (congrArg (Res.ok ()) (reInit_eq s.cfg s)),
    exec_of_ok (i := .lzInit) (by decide) hs (congrArg (Res.ok ()) (lzInit_eq s))⟩
  · have hbody : bodyOf .brInit s = .ok () ((s.setBrPos 0#32).setValid .br) := by
      rw [bodyOf]
      exact checked_pass rfl (by simpa using hl)
    exact exec_of_ok (by decide) hs hbody
  · exact exec_of_overflow (i := .brInit) (by decide) hs (by rw [bodyOf]; exact checked_overflows rfl ⟨.flags, by simp, hl⟩)

/-! ### Flag reads -/

@[simp] theorem State.setBrPos_flagsBit (p : Word) (s : State) (j : Nat) : (s.setBrPos p).flagsBit j = s.flagsBit j := rfl
@[simp] theorem State.setValid_flagsBit (u : ValidBit) (s : State) (j : Nat) : (s.setValid u).flagsBit j = s.flagsBit j := rfl

theorem flagsBit_past {s : State} {j : Nat} (h : 8 * s.len .flags ≤ j) : s.flagsBit j = false := by
  simp [State.flagsBit, Nat.not_lt.mpr h]

/-- Inside the region the flag bit, as a word, is the bit `7 - (j mod 8)` of its byte, as a number. -/
theorem flagsBit_word {s : State} {j : Nat} (h : j < 8 * s.len .flags) :
    (BitVec.ofBool (s.flagsBit j)).setWidth 32 =
      BitVec.ofNat 32 (((s.byte .flags (j / 8)).toNat >>> (7 - j % 8)) % 2) := by
  have hbit : s.flagsBit j = (s.byte .flags (j / 8)).toNat.testBit (7 - j % 8) := by
    simp [State.flagsBit, h, BitVec.testBit_toNat]
  rw [hbit, Nat.testBit_eq_decide_div_mod_eq, Nat.shiftRight_eq_div_pow]
  rcases Nat.mod_two_eq_zero_or_one ((s.byte .flags (j / 8)).toNat / 2 ^ (7 - j % 8)) with h2 | h2 <;> simp [h2]

/-- An accepted flag read gives the flag bit at `BR.pos`, and the bits ahead of the reader are then those that stood one place
further: past the end they are all 0, so it does not matter that `BR.pos` is held there (40_bitio R128). -/
theorem brRbit_ok {c : Config} (hc : c.Bounded) {s : State} (hv : s.isValid .br = true) (hl : s.len .flags ≤ capacity c .flags) :
    ∃ p, brRbit c s = .ok (s.flagsBit s.brPos.toNat) (s.setBrPos p) ∧
      p.toNat = max s.brPos.toNat (min (s.brPos.toNat + 1) (8 * s.len .flags)) ∧
      ∀ k, s.flagsBit (p.toNat + k) = s.flagsBit (s.brPos.toNat + (k + 1)) := by
  by_cases hp : s.brPos.toNat < 8 * s.len .flags
  · have hread := brRbit_inside hv hl hp
    obtain ⟨-, p, hpos, hnext⟩ := brRbit_spec hc hread
    rw [if_pos hp] at hnext
    exact ⟨p, hread.trans (congrArg _ hpos), by omega, fun k => by rw [hnext, Nat.add_right_comm, Nat.add_assoc]⟩
  · have hzero : s.flagsBit s.brPos.toNat = false := flagsBit_past (by omega)
    refine ⟨s.brPos, by rw [hzero]; exact brRbit_past hv hl (by omega), by omega, fun k => ?_⟩
    rw [flagsBit_past (by omega), flagsBit_past (by omega)]

/-- `n` reads give the `n` flag bits from `BR.pos` on. -/
theorem readAll_ok {c : Config} (hc : c.Bounded) {n : Nat} {s : State} (hv : s.isValid .br = true)
    (hl : s.len .flags ≤ capacity c .flags) :
    ∃ t, readAll c n s = .ok ((List.range n).map fun k => s.flagsBit (s.brPos.toNat + k)) t := by
  induction n generalizing s with
  | zero => exact ⟨s, rfl⟩
  | succ n ih =>
    obtain ⟨p, hread, -, hahead⟩ := brRbit_ok hc hv hl
    obtain ⟨t, ht⟩ := ih (s := s.setBrPos p) hv hl
    refine ⟨t, ?_⟩
    simp only [State.setBrPos_brPos, State.setBrPos_flagsBit, hahead] at ht
    rw [readAll, hread, Res.bind_ok, ht, Res.bind_ok, List.range_succ_eq_map, List.map_cons, List.map_map]
    rfl

/-- Shifting a bit in at the low end. -/
theorem getLsbD_shiftIn (v : Word) (b : Bool) {k : Nat} (hk : k < 32) :
    ((v <<< 1) ||| (BitVec.ofBool b).setWidth 32).getLsbD k = if k = 0 then b else v.getLsbD (k - 1) := by
  by_cases h0 : k = 0
  · simp [h0]
  · simp [h0, hk, BitVec.getLsbD_eq_getElem (show k - 1 < 32 by omega)]

/-- `n` reads shift the flag bits from `BR.pos` on into the word, the first one ending up highest, and stop at the end of `FLAGS`
(40_bitio R129). -/
theorem brBits_ok {c : Config} (hc : c.Bounded) {n : Nat} {v : Word} {s : State} (hv : s.isValid .br = true)
    (hl : s.len .flags ≤ capacity c .flags) :
    ∃ w p, brBits c n v s = .ok w (s.setBrPos p) ∧
      p.toNat = max s.brPos.toNat (min (s.brPos.toNat + n) (8 * s.len .flags)) ∧
      ∀ k, k < 32 → w.getLsbD k = if k < n then s.flagsBit (s.brPos.toNat + (n - 1 - k)) else v.getLsbD (k - n) := by
  induction n generalizing v s with
  | zero => exact ⟨v, s.brPos, rfl, by omega, fun k _ => rfl⟩
  | succ n ih =>
    obtain ⟨q, hread, hq, hahead⟩ := brRbit_ok hc hv hl
    obtain ⟨w, p, hrest, hp, hbits⟩ := ih (v := (v <<< 1) ||| (BitVec.ofBool (s.flagsBit s.brPos.toNat)).setWidth 32)
      (s := s.setBrPos q) hv hl
    simp only [State.setBrPos_brPos, State.setBrPos_len, State.setBrPos_flagsBit, hahead] at hp hbits
    refine ⟨w, p, by rw [brBits, hread, Res.bind_ok, hrest]; rfl, by omega, fun k hk => ?_⟩
    rw [hbits k hk, getLsbD_shiftIn _ _ (by omega)]
    rcases Nat.lt_trichotomy k n with hlt | rfl | hgt
    · rw [if_pos hlt, if_pos (by omega), show n - 1 - k + 1 = n + 1 - 1 - k by omega]
    · simp
    · rw [if_neg (by omega), if_neg (by omega), if_neg (by omega), Nat.sub_sub]

/-- Settles O18: the read is `brRbit_inside`, `brRbit_past` or a refusal by its check. -/
theorem brRbitResult : Obligations.BrRbitResult := by
  intro s hs
  refine ⟨fun hv hl hp => ?_, fun hv hl hp => ?_, fun hv => ?_⟩
  · rw [← flagsBit_word hp]
    have hbody : bodyOf .brRbit s = .ok () ((s.setBrPos (s.brPos + 1#32)).setResult
        ((BitVec.ofBool (s.flagsBit s.brPos.toNat)).setWidth 32)) := by
      dsimp only [bodyOf]
      rw [brRbit_inside hv hl hp, Res.bind_ok, setResult]
    exact exec_of_ok (by decide) hs hbody
  · have hbody : bodyOf .brRbit s = .ok () (s.setResult 0#32) := by
      dsimp only [bodyOf]
      rw [brRbit_past hv hl hp, Res.bind_ok]
      rfl
    exact exec_of_ok (by decide) hs hbody
  · refine exec_of_refused (i := .brRbit) (by decide) hs ?_
    dsimp only [bodyOf]
    rw [brRbit, checked_refuses hv, Res.bind_refused]

/-- Settles O19: `brBits_ok` from the word 0. -/
theorem brRbitsResult : Obligations.BrRbitsResult := by
  intro s hs
  refine ⟨fun hv hc hl hn => ?_, fun h => ?_⟩
  · obtain ⟨w, p, hread, hp, hbits⟩ := brBits_ok hc (n := s.arg0.toNat) (v := 0#32) hv hl
    have hbody : bodyOf .brRbits s = .ok () ((s.setBrPos p).setResult w) := by
      dsimp only [bodyOf]
      rw [brRbits, checked_pass (by simp [hv, hn]) (by simpa using hl), hread, Res.bind_ok, setResult]
    have ht := exec_of_ok (by decide) hs hbody
    obtain ⟨hfields, hkept⟩ := frameOfCommandsThatStoreNothing _ _ _ (by decide) ht
    refine ⟨_, ht, rfl, fun k hk => ?_, hp, hfields, hkept⟩
    change w.getLsbD k = _
    rw [hbits k hk]
    split <;> simp [*]
  · refine exec_of_refused (i := .brRbits) (by decide) hs ?_
    dsimp only [bodyOf]
    rw [brRbits, checked_refuses, Res.bind_refused]
    rcases h with h | h
    · simp [h]
    · simp [Nat.not_le.mpr h]

/-! ### Bits written are read back -/

theorem bwOpen_of_withoutWriter {s t : State} (h : t.withoutWriter = s.withoutWriter) (c : Config) :
    bwOpen c t = bwOpen c s := by
  have hflushed : t.withoutWriter.bwFlushed = s.withoutWriter.bwFlushed := congrArg State.bwFlushed h
  simp only [State.withoutWriter, State.setWriter_bwFlushed, State.setBuf_bwFlushed] at hflushed
  rw [bwOpen, bwOpen, hflushed]

/-- An open writer takes any bits that fit, and holds them behind those it held. -/
theorem writeAll_ok {c : Config} (hc : c.Bounded) {bits : List Bool} {s : State} (ho : bwOpen c s = true) (hw : s.WriterInv)
    (hroom : s.writerBits.length + bits.length ≤ 8 * capacity c .flags) :
    ∃ t, writeAll c bits s = .ok () t ∧ t.WriterInv ∧ t.writerBits = s.writerBits ++ bits := by
  induction bits generalizing s with
  | nil => exact ⟨s, rfl, hw, by simp⟩
  | cons b bits ih =>
    rw [List.length_cons] at hroom
    have hbyte : s.bwCnt = 7#3 → s.len .flags < capacity c .flags := fun h => by
      have h7 : s.bwCnt.toNat = 7 := congrArg BitVec.toNat h
      rw [State.writerBits_length] at hroom
      omega
    obtain ⟨u, hu, hframe⟩ := bwWbit_ok (b := b) ho hbyte
    obtain ⟨hinv, hheld⟩ := bwWbit_writerBits hc hw hu
    obtain ⟨t, ht, hinv', hheld'⟩ := ih ((bwOpen_of_withoutWriter hframe c).trans ho) hinv
      (by rw [hheld, List.length_append, List.length_singleton]; omega)
    exact ⟨t, by rw [writeAll, hu, Res.bind_ok, ht], hinv', by rw [hheld', hheld, List.append_assoc, List.singleton_append]⟩

/-- After `BW.INIT` the writer is open and empty (40_bitio R122). -/
theorem bwInit_empty (c : Config) (s : State) :
    bwOpen c (bwInit s) = true ∧ (bwInit s).WriterInv ∧ (bwInit s).writerBits = [] :=
  ⟨by simp [bwOpen, bwInit], writerInv_of_empty rfl, by simp [State.writerBits, bwInit]⟩

/-- Settles O20: the writer holds the bits (`writeAll_ok`), the flush leaves them as the flag region (`bwFlush_flags`), and the reader
gives the flag bits from position 0 on (`readAll_ok`). -/
theorem bitOrderRoundTrip : Obligations.BitOrderRoundTrip := by
  intro c s bits hc hfit
  obtain ⟨hopen, hinv, hempty⟩ := bwInit_empty c s
  have hroom : bits.length ≤ 8 * capacity c .flags := by
    rw [ceilDiv8] at hfit
    omega
  obtain ⟨t, ht, hinv', hheld⟩ := writeAll_ok hc (bits := bits) hopen hinv (by simpa [hempty] using hroom)
  rw [hempty, List.nil_append] at hheld
  have hcount := t.writerBits_length
  rw [hheld] at hcount
  have hbyte : t.bwCnt ≠ 0#3 → t.len .flags < capacity c .flags := fun h => by
    have h0 : t.bwCnt.toNat ≠ 0 := fun h0 => h (BitVec.eq_of_toNat_eq h0)
    omega
  obtain ⟨u, hu, -, -, -, hlen, hflags⟩ := bwFlush_flags hc hinv' hbyte
  rw [hheld] at hlen hflags
  have hcap : u.len .flags ≤ capacity c .flags := hlen ▸ hfit
  obtain ⟨w, hread⟩ := readAll_ok hc (n := bits.length) (s := (u.setBrPos 0#32).setValid .br)
    (by simp [State.setValid_isValid]) hcap
  refine ⟨t, u, _, w, ht, hu, hlen, hflags, checked_pass rfl (by simpa using hcap), hread.trans ?_⟩
  congr 1
  refine List.ext_getElem (by simp) fun k hk hk' => ?_
  have hbit : u.flagsBit k = bits[k] := (hflags k).trans (List.getD_eq_getElem _ _ hk')
  simp [hbit]

end Sys2Proof.Machine


/-! PROOFS. The token `LIT` (spec 45_orchestration R240, R250). -/

namespace Sys2Proof.Machine

/-- `RD.GET` with its units ready answers, moves the decoder alone, and does not look at `BR.pos` (42_rans R172). -/
theorem rdGet_ok {c : Config} {s : State} (hrd : s.isValid .rd = true) (hss : s.isValid .ss = true) (hfull : s.modelFull = true)
    (hl : s.len .rans ≤ capacity c .rans) :
    ∃ sym x p, rdGet c s = .ok sym (s.setDecoder x p) ∧ ∀ q, rdGet c (s.setBrPos q) = .ok sym ((s.setBrPos q).setDecoder x p) := by
  have hready : (s.isValid .rd && s.isValid .ss && s.modelFull) = true := by simp [hrd, hss, hfull]
  refine ⟨_, _, _, by rw [rdGet, checked_pass hready (by simpa using hl)], fun q => ?_⟩
  have hrefill (x : Word) : refill c (s.setBrPos q) s.rdPtr.toNat x = refill c s s.rdPtr.toNat x :=
    refill_congr c _ x fun a _ => State.setBrPos_byte q s .rans a
  refine (checked_pass hready (by simpa using hl)).trans ?_
  simp only [State.setBrPos_rdPtr, hrefill]
  rfl

/-- Settles O40: the token at the cursor is the `LIT`, so `DEC.STEP` runs it (`decStepRunsTheToken`); its symbol is the one `RD.GET`
returns before `BR.pos` moves (`rdGet_ok`), and the append has room. -/
theorem litResult : Obligations.LitResult := by
  intro s hs hc hready hmore hflags hmtch hrans hout hbit
  have htoken : decodeToken (s.flagsBit s.brPos.toNat) s.recordHere = .ok (.lit, s.recordHere) := by rw [hbit]; rfl
  have hstep : exec .decStep s = exec .lit s :=
    decStepRunsTheToken s .lit _ (by rw [State.tokenHere, State.flagHere_eq, htoken])
  have hfits : ∀ sp ∈ [Space.flags, .mtch, .rans, .out], s.len sp ≤ capacity s.cfg sp := by
    simp [hflags, hmtch, hrans, hout.le]
  obtain ⟨q, hq, hbody⟩ := decStep_ready hc hready (decide_eq_true hmore) hfits
  rw [htoken] at hbody
  simp only [decReady, Bool.and_eq_true] at hready
  obtain ⟨⟨⟨-, hrd⟩, hss⟩, hfull⟩ := hready
  obtain ⟨sym, x, p, hget, hget'⟩ := rdGet_ok hrd hss hfull hrans
  obtain ⟨hlen, hbyte⟩ : _ = s.len .out + 1 ∧ _ := appended_spec hc (sp := .out) (s := (s.setBrPos q).setDecoder x p) sym hout
  have hlit : litToken s.cfg (s.setBrPos q) = .ok () (((s.setBrPos q).setDecoder x p).appended .out sym) := by
    rw [litToken, hget', Res.bind_ok]
    exact append_ok sym hout
  have hdec := exec_of_ok (i := .decStep) (by decide) hs (hbody.trans hlit)
  have hexec := hstep.symm.trans hdec
  have hrdGet : exec .rdGet s = _ := exec_of_ok (by decide) hs (t := (s.setDecoder x p).setResult (sym.setWidth 32)) (by
    dsimp only [bodyOf]
    rw [hget, Res.bind_ok, setResult])
  obtain ⟨hfields, hkept⟩ := exec_storesIn (sp := .out) (n := s.len .out) hc hexec (.inr (by decide)) (by decide)
    fun x => by cases x <;> rfl
  refine ⟨_, _, hexec, hdec, hrdGet, rfl, hq, hlen, ?_, rfl, rfl, hfields, fun x a h => hkept x a (hlen ▸ h)⟩
  have hresult : (sym.setWidth 32).toNat = sym.toNat := BitVec.toNat_setWidth_of_le (by decide)
  exact (congrArg BitVec.toNat hbyte).trans hresult.symm

end Sys2Proof.Machine


/-! PROOFS. The SymbolStats commands `SS.COUNT`, `SS.STORE` and `SS.LOAD` (spec 41_symbolstats R141 to R150). -/

namespace Sys2Proof.Machine

/-! ### The tally and the scaled frequencies of the input -/

/-- A sum over the 256 symbols is the sum of the list of its terms. -/
theorem sumSymbols_eq_sum {f : Byte → Nat} {fs : List Nat} (hlen : fs.length = 256)
    (h : ∀ sym : Byte, f sym = fs.getD sym.toNat 0) : sumSymbols f = fs.sum := by
  refine congrArg List.sum (List.ext_getElem (by simp [hlen]) fun i hi hi' => ?_)
  have hsym : (BitVec.ofNat 8 i).toNat = i := Nat.mod_eq_of_lt (by omega)
  rw [List.getElem_map, List.getElem_range, h, hsym, List.getD_eq_getElem _ _ hi']

/-- The tally of the input (41_symbolstats R142). -/
def State.inputTally (s : State) : List Nat := tally (s.bytes .inp 0 (s.len .inp))

theorem State.inputTally_getD (s : State) (sym : Byte) : s.inputTally.getD sym.toNat 0 = s.inputCount sym := by
  rw [State.inputTally, tally_getD _ _ sym.isLt, BitVec.ofNat_toNat, BitVec.setWidth_eq, State.bytes, List.count, List.countP_map,
    List.countP_eq_length_filter]
  simp [State.inputCount, Function.comp_def]

theorem State.inputCount_le (s : State) (sym : Byte) : s.inputCount sym ≤ s.len .inp :=
  (List.length_filter_le _ _).trans List.length_range.le

/-- The frequencies of the input before the adjustment (41_symbolstats R143). -/
def State.scaledFreqs (s : State) : List Nat := s.inputTally.map (scaleFreq (s.len .inp))

theorem State.scaledFreqs_length (s : State) : s.scaledFreqs.length = 256 := by
  rw [State.scaledFreqs, List.length_map, State.inputTally, tally_length]

/-- A scaled frequency of 0 is forced to 1 for a seen symbol, which is a maximum (41_symbolstats R143). -/
theorem scaleFreq_eq_max (n raw : Nat) : scaleFreq n raw = if raw = 0 then 0 else max 1 (raw * probScale / n) := by
  unfold scaleFreq
  generalize raw * probScale / n = q
  split_ifs <;> omega

theorem State.scaledFreqs_getD (s : State) (sym : Byte) : s.scaledFreqs.getD sym.toNat 0 = s.scaled sym := by
  have hmap : s.scaledFreqs.getD sym.toNat (scaleFreq (s.len .inp) 0) = scaleFreq (s.len .inp) (s.inputTally.getD sym.toNat 0) :=
    List.getD_map ..
  exact hmap.trans (by rw [s.inputTally_getD, scaleFreq_eq_max]; rfl)

theorem State.scaledFreqs_sum (s : State) : s.scaledFreqs.sum = sumSymbols s.scaled :=
  (sumSymbols_eq_sum s.scaledFreqs_length fun sym => (s.scaledFreqs_getD sym).symm).symm

/-! ### The adjusted frequencies of the input -/

/-- The frequencies `SS.COUNT` computes (41_symbolstats R141). -/
def State.inputFreqs (s : State) : List Nat := normalise (s.len .inp) s.inputTally

/-- An empty input has the frequencies of the empty model (41_symbolstats R141). -/
theorem State.inputFreqs_of_empty {s : State} (h : s.len .inp = 0) :
    s.inputFreqs.length = 256 ∧ ∀ f ∈ s.inputFreqs, f = 0 := by
  rw [State.inputFreqs, normalise, if_pos h]
  exact ⟨by rw [List.length_map, State.inputTally, tally_length], by simp⟩

section NonEmpty
variable {s : State} (h1 : 1 ≤ s.len .inp)
include h1

theorem State.inputFreqs_whole : WholeModel s.inputFreqs := by
  obtain ⟨hlen, hsum⟩ := normalise_sum (s.len .inp) s.inputTally h1 (tally_length _)
  exact ⟨hlen, hsum⟩

theorem State.inputFreqs_pos {sym : Byte} (hsym : 1 ≤ s.inputCount sym) : 1 ≤ s.inputFreqs.getD sym.toNat 0 := by
  refine normalise_pos h1 (tally_length _) (fun i hi => ?_) sym.isLt (hsym.trans_eq (s.inputTally_getD sym).symm)
  simpa using tally_le_length (s.bytes .inp 0 (s.len .inp)) i hi

/-- The frequencies are the scaled ones, adjusted (41_symbolstats R144, R145). -/
theorem State.inputFreqs_eq : s.inputFreqs =
    if s.scaledFreqs.sum < probScale then addDeficit (probScale - s.scaledFreqs.sum) s.scaledFreqs
    else trimExcess (nsym * (s.scaledFreqs.sum - probScale)) 0 s.scaledFreqs.sum s.scaledFreqs :=
  if_neg (by omega)

/-- A deficit, and be it 0, goes to index 0 (41_symbolstats R144). -/
theorem State.inputFreqs_of_deficit (h : s.scaledFreqs.sum ≤ probScale) {i : Nat} (hi : i < 256) :
    s.inputFreqs.getD i 0 = s.scaledFreqs.getD i 0 + if i = 0 then probScale - s.scaledFreqs.sum else 0 := by
  have hlen := s.scaledFreqs_length
  rw [State.inputFreqs_eq h1]
  by_cases hlt : s.scaledFreqs.sum < probScale
  · obtain ⟨-, -, hget⟩ := addDeficit_spec (probScale - s.scaledFreqs.sum) s.scaledFreqs (by omega)
    rw [if_pos hlt, hget i (by omega)]
  · have heq : s.scaledFreqs.sum = probScale := by omega
    rw [if_neg hlt, heq]
    simp [trimExcess]

/-- An excess is taken by a walk of `k` full passes and the indices below `j` (41_symbolstats R145). -/
theorem State.inputFreqs_of_excess (h : probScale < s.scaledFreqs.sum) :
    ∃ k j, j < 256 ∧
      ∀ i, i < 256 → s.inputFreqs.getD i 0 = taken (s.scaledFreqs.getD i 0) (k + if i < j then 1 else 0) := by
  obtain ⟨k, j, hj, -, -, hget⟩ := trimExcess_start s.scaledFreqs s.scaledFreqs_length h.le
  refine ⟨k, j, hj, fun i hi => ?_⟩
  rw [← hget i hi, State.inputFreqs_eq h1, if_neg h.not_gt]

end NonEmpty

/-! ### `SS.COUNT` -/

/-- The state `SS.COUNT` leaves but for `STATUS`. -/
def counted (s : State) : State :=
  (s.setRaw (tabulate 256 fun i => BitVec.ofNat 32 (s.inputTally.getD i 0))).putModel s.inputFreqs

theorem counted_hasTables (s : State) : (counted s).HasTables s.inputFreqs := putModel_hasTables _ _

theorem counted_raw (s : State) (sym : Byte) : ((counted s).raw[sym.toNat]?.getD 0#32).toNat = s.inputCount sym := by
  have hraw : (counted s).raw = tabulate 256 fun i => BitVec.ofNat 32 (s.inputTally.getD i 0) := rfl
  rw [hraw, tabulate_getElem?, if_pos sym.isLt, Option.getD_some, s.inputTally_getD, BitVec.toNat_ofNat]
  exact Nat.mod_eq_of_lt ((s.inputCount_le sym).trans_lt (s.buf .inp).len.isLt)

theorem counted_freq {s : State} (h1 : 1 ≤ s.len .inp) (sym : Byte) : (counted s).freq sym = s.inputFreqs.getD sym.toNat 0 :=
  (counted_hasTables s).freq_eq (State.inputFreqs_whole h1) sym

theorem counted_freq_sum {s : State} (h1 : 1 ≤ s.len .inp) : sumSymbols (counted s).freq = probScale := by
  have hwhole := State.inputFreqs_whole h1
  rw [sumSymbols_eq_sum hwhole.length (counted_freq h1), hwhole.sum]

theorem counted_modelEmpty {s : State} (h0 : s.len .inp = 0) : (counted s).ModelEmpty := by
  obtain ⟨hlen, hzero⟩ := State.inputFreqs_of_empty h0
  exact (counted_hasTables s).modelEmpty hlen hzero

/-- The cumulative table of a model, whole or empty, is the prefix sum of its frequencies (41_symbolstats R146). -/
theorem counted_cum (s : State) :
    (counted s).cumAt 0 = 0 ∧
      ∀ sym : Byte, (counted s).cumAt (sym.toNat + 1) = (counted s).cumAt sym.toNat + (counted s).freq sym := by
  by_cases h0 : s.len .inp = 0
  · obtain ⟨hfreq, hcum⟩ := counted_modelEmpty h0
    refine ⟨hcum 0 (by decide), fun sym => ?_⟩
    have hsym := sym.isLt
    rw [hcum _ (by omega), hcum _ (by omega), hfreq]
  · obtain ⟨hzero, hsucc, -⟩ := (counted_hasTables s).modelOk (State.inputFreqs_whole (Nat.pos_of_ne_zero h0))
    exact ⟨hzero, hsucc⟩

theorem exec_ssCount {s : State} (hs : s.err = 0#4) (hn : s.len .inp ≤ s.cfg.nMax) :
    exec .ssCount s = .next { counted s with status := mkStatus 0#4 true } :=
  exec_of_ok (by decide) hs (ssCount_eq hn)

/-- Settles O21: the state is `counted`, whose tables are those of the tally; the frame is that of a command that stores nothing. -/
theorem ssCountResult : Obligations.SsCountResult := by
  intro s hs
  refine ⟨fun hn => ?_, fun hn => ?_⟩
  · have hexec := exec_ssCount hs hn
    obtain ⟨hfields, hbytes⟩ := frameOfCommandsThatStoreNothing .ssCount s _ (by decide) hexec
    obtain ⟨hzero, hsucc⟩ := counted_cum s
    exact ⟨_, hexec, rfl, rfl, counted_raw s, hzero, hsucc, counted_modelEmpty, hfields, hbytes⟩
  · obtain ⟨hover, -⟩ := inputBufferOverflow s hs
    exact hover .ssCount .inp (by decide) hn

/-- Settles O22: the frequencies are a whole model (`normalise_sum`) with a place for every symbol seen (`normalise_pos`). -/
theorem modelSum : Obligations.ModelSum := by
  intro s hs h1 hn
  refine ⟨_, exec_ssCount hs hn, counted_freq_sum h1, fun sym hsym => ?_⟩
  exact (State.inputFreqs_pos h1 hsym).trans_eq (counted_freq h1 sym).symm

/-- Settles O23: the two cases of the adjustment of the scaled frequencies; a sum of exactly 4096 is a deficit of 0. -/
theorem deficitAndExcess : Obligations.DeficitAndExcess := by
  intro s hs h1 hn
  refine ⟨_, exec_ssCount hs hn, fun hle sym => ?_, fun hgt => ?_⟩
  · rw [← s.scaledFreqs_sum] at hle ⊢
    refine (counted_freq h1 sym).trans ((State.inputFreqs_of_deficit h1 hle sym.isLt).trans ?_)
    rw [s.scaledFreqs_getD]
    by_cases h0 : sym = 0#8
    · subst h0
      rfl
    · have hne : sym.toNat ≠ 0 := fun h => h0 (BitVec.eq_of_toNat_eq h)
      rw [if_neg hne, if_neg h0, Nat.add_zero]
  · rw [← s.scaledFreqs_sum] at hgt
    obtain ⟨k, j, hj, hget⟩ := State.inputFreqs_of_excess h1 hgt
    refine ⟨k, j, hj, fun sym => ?_, counted_freq_sum h1⟩
    refine (counted_freq h1 sym).trans ((hget _ sym.isLt).trans ?_)
    rw [s.scaledFreqs_getD, taken]

/-! ### `SS.STORE` -/

/-- Frequency `s` stands at `2s` and `2s + 1` of a model region, low byte first (41_symbolstats R148). -/
theorem HasModelRegion.byte_toNat {s t : State} {sp : Space} {o : Nat} (h : HasModelRegion s t sp o) (sym : Byte) :
    (t.byte sp (o + 2 * sym.toNat)).toNat = s.freq sym % 256 ∧ (t.byte sp (o + 2 * sym.toNat + 1)).toNat = s.freq sym / 256 := by
  have hsym := sym.isLt
  obtain ⟨hlow, hhigh⟩ := modelBytes_getElem? s sym.toNat hsym
  rw [h _ (by omega), Option.some.injEq] at hlow hhigh
  have hfreq : s.freq sym = (s.freqs[sym.toNat]?.getD 0#16).toNat := rfl
  have hlt := (s.freqs[sym.toNat]?.getD 0#16).isLt
  rw [hlow, Nat.add_assoc, hhigh, hfreq, byte_of_half, byte_of_half]
  omega

theorem stored_bytesKept (s : State) : BytesKeptOutside .model 0 512 s (stored s) := by
  intro x a hx
  by_cases hmodel : x = .model
  · subst hmodel
    rw [stored, State.load_byte_same, dif_neg (by rw [modelBytes_length]; simpa using hx)]
  · exact State.load_byte_ne hmodel _ s a

/-- Settles O24: the state is `stored`, the region written from address 0 on. -/
theorem ssStoreResult : Obligations.SsStoreResult := by
  intro s hs
  refine ⟨fun hss => ?_, fun hss => exec_of_refused (by decide) hs (by rw [bodyOf]; exact checked_refuses hss)⟩
  have hexec := exec_of_ok (i := .ssStore) (by decide) hs (ssStore_stored hss)
  obtain ⟨hlen, hregion⟩ := stored_region s
  have hfields : Unchanged [.status, .len .model] s (stored s) := unchanged_load s (by decide) _
  have hbytes := stored_bytesKept s
  generalize stored s = u at *
  refine ⟨_, hexec, rfl, hlen, fun sym => ?_, hfields.trans (unchanged_status u (by decide) _), hbytes⟩
  have hpair := hregion.byte_toNat sym
  rwa [Nat.zero_add] at hpair

/-! ### `SS.LOAD` -/

theorem regionFreqs_length (s : State) : (regionFreqs s).length = 256 := by simp [regionFreqs]

theorem regionFreqs_getD (s : State) (sym : Byte) : (regionFreqs s).getD sym.toNat 0 = s.regionFreq .model 0 sym := by
  have hlen : sym.toNat < (regionFreqs s).length := by rw [regionFreqs_length]; exact sym.isLt
  rw [List.getD_eq_getElem _ _ hlen]
  simp only [regionFreqs, List.getElem_map, List.getElem_range, State.field16_toNat, State.regionFreq, Nat.zero_add]

theorem regionFreqs_sum (s : State) : (regionFreqs s).sum = sumSymbols (s.regionFreq .model 0) :=
  (sumSymbols_eq_sum (regionFreqs_length s) fun sym => (regionFreqs_getD s sym).symm).symm

/-- With a region of the right length `SS.LOAD` comes to look at the sum. -/
theorem ssLoad_eq {c : Config} {s : State} (hlen : s.len .model = 512) :
    ssLoad c s = if (regionFreqs s).sum = probScale then .ok () (s.putModel (regionFreqs s)) else .raised .badModel s :=
  checked_pass (by simp [hlen]) (by simp [hlen, capacity])

/-- Settles O25: a table that sums to 4096 is a whole model, whose tables `SS.LOAD` puts; else it raises before it has changed
anything. -/
theorem ssLoadResult : Obligations.SsLoadResult := by
  intro s hs
  refine ⟨fun hlen hsum => ?_, fun hlen hsum => ?_, fun hlen => ?_⟩
  · have hwhole : WholeModel (regionFreqs s) := ⟨regionFreqs_length s, (regionFreqs_sum s).trans hsum⟩
    have hbody : bodyOf .ssLoad s = .ok () (s.putModel (regionFreqs s)) := (ssLoad_eq hlen).trans (if_pos hwhole.sum)
    have hexec := exec_of_ok (by decide) hs hbody
    obtain ⟨hfields, hbytes⟩ := frameOfCommandsThatStoreNothing .ssLoad s _ (by decide) hexec
    have htables := putModel_hasTables (regionFreqs s) s
    exact ⟨_, hexec, rfl, rfl, htables.modelOk hwhole, fun sym => (htables.freq_eq hwhole sym).trans (regionFreqs_getD s sym),
      hfields, hbytes⟩
  · have hbody : bodyOf .ssLoad s = .raised .badModel s := (ssLoad_eq hlen).trans (if_neg (by rwa [regionFreqs_sum]))
    exact exec_of_raised (k := .badModel) (by decide) hs hbody
  · exact exec_of_refused (by decide) hs (by rw [bodyOf]; exact checked_refuses (by simpa using hlen))

end Sys2Proof.Machine


/-! PROOFS. The rANS decoder's commands (spec 42_rans R170 to R172, R177). -/

namespace Sys2Proof.Machine

/-! ### `RD.INIT` -/

/-- Settles O28: the field at `RANS_LEN - 4` is the number of its four bytes (`State.field32_toNat`), and the subtraction does not
wrap. -/
theorem rdInitResult : Obligations.RdInitResult := by
  intro s hs
  refine ⟨fun hlen hcap => ?_, fun hlen => ?_⟩
  · have hbody : bodyOf .rdInit s =
        .ok () ((s.setDecoder (s.field32 .rans (s.len .rans - 4)) (s.rans.len - 4#32)).setValid .rd) := by
      dsimp only [bodyOf, rdInit]
      rw [checked_pass (by simpa using hlen) (by simpa using hcap)]
    have hstate : BitVec.ofNat 32 (s.number32 .rans (s.len .rans - 4)) = s.field32 .rans (s.len .rans - 4) := by
      rw [← State.field32_toNat, BitVec.ofNat_toNat, BitVec.setWidth_eq]
    have hptr : BitVec.ofNat 32 (s.len .rans - 4) = s.rans.len - 4#32 := by
      have hword : s.len .rans = s.rans.len.toNat := rfl
      bv_omega
    rw [hstate, hptr]
    exact exec_of_ok (by decide) hs hbody
  · exact exec_of_refused (by decide) hs (by rw [bodyOf]; exact checked_refuses (by simpa using hlen))

/-! ### `RD.GET` -/

/-- A symbol's update leaves at most the state it found: its frequency is at most the scale (42_rans R172). -/
theorem decUpdate_le {x f low : Nat} (hf : f ≤ probScale) : decUpdate x f (x % probScale) low ≤ x := by
  have hdiv : x >>> probBits = x / probScale := Nat.shiftRight_eq_div_pow x probBits
  calc decUpdate x f (x % probScale) low ≤ x / probScale * f + x % probScale := by rw [decUpdate, hdiv]; exact Nat.sub_le _ _
    _ ≤ x / probScale * probScale + x % probScale := Nat.add_le_add_right (Nat.mul_le_mul_left _ hf) _
    _ = x := Nat.div_add_mod' x probScale

/-- Settles O29: the symbol is the one the lookup finds (`State.lookup_spec`), its update fits the register (`decUpdate_le`), and the
refill is told byte by byte (`refill_spec`). -/
theorem rdGetResult : Obligations.RdGetResult := by
  intro s hs
  refine ⟨fun hrd hss hm hcap => ?_, fun h => ?_⟩
  · obtain ⟨hlow, hhigh⟩ := State.lookup_spec hm (Nat.mod_lt s.rdState.toNat (y := probScale) (by decide))
    generalize hsym : s.lookup (s.rdState.toNat % probScale) = sym at hlow hhigh
    have hupd := decUpdate_le (x := s.rdState.toNat) (low := s.cumAt sym.toNat)
      ((Nat.le_add_left _ _).trans (hm.freq_le sym))
    obtain ⟨k, x, hx0, hk, hstep, hend, hrefill⟩ := refill_spec s.cfg s s.rdPtr.toNat
      (BitVec.ofNat 32 (decUpdate s.rdState.toNat (s.freq sym) (s.rdState.toNat % probScale) (s.cumAt sym.toNat)))
    have hget : rdGet s.cfg s = .ok sym (s.setDecoder (x k) (BitVec.ofNat 32 (s.rdPtr.toNat - k))) := by
      rw [rdGet, checked_pass (by simp [hrd, hss, State.modelFull, hm.2.2]) (by simpa using hcap)]
      dsimp only
      rw [hsym, hrefill]
    have hexec : exec .rdGet s = _ := exec_of_ok (by decide) hs
      (t := (s.setDecoder (x k) (BitVec.ofNat 32 (s.rdPtr.toNat - k))).setResult (sym.setWidth 32)) (by
        dsimp only [bodyOf]
        rw [hget, Res.bind_ok, setResult])
    obtain ⟨hfields, hbytes⟩ := frameOfCommandsThatStoreNothing .rdGet s _ (by decide) hexec
    have hword := s.rdState.isLt
    have hptr := s.rdPtr.isLt
    refine ⟨_, sym, k, x, hexec, rfl, hlow, hhigh, (BitVec.ofNat_toNat 32 sym).symm, ?_, hk, hstep, hend, rfl, ?_, hfields, hbytes⟩
    · rw [hx0, BitVec.toNat_ofNat, Nat.mod_eq_of_lt (by omega), decUpdate, Nat.shiftRight_eq_div_pow]
      rfl
    · exact (BitVec.toNat_ofNat _ 32).trans (Nat.mod_eq_of_lt (by omega))
  · refine exec_of_refused (by decide) hs ?_
    dsimp only [bodyOf, rdGet]
    rw [checked_refuses, Res.bind_refused]
    rcases h with h | h | h <;> simp [State.modelFull, h]

end Sys2Proof.Machine


/-! PROOFS. Decoding reverses encoding when no byte was emitted (spec 42_rans R178, case 1; 45_orchestration R245). -/

namespace Sys2Proof.Machine

/-! ### The coder without a renormalisation byte -/

/-- Renormalise-out that leaves no byte has found none to shift out. -/
theorem shiftOut_noBytes {bound fuel : Nat} {d : Word × List Byte} (h : (shiftOut bound (fuel + 1) d).2 = []) :
    d.2 = [] ∧ d.1.toNat < bound ∧ shiftOut bound (fuel + 1) d = d := by
  rw [shiftOut] at h ⊢
  split at h
  next hb =>
    have hlen := length_le_shiftOut bound fuel (d.1 >>> 8, d.1.extractLsb' 0 8 :: d.2)
    rw [h] at hlen
    simp at hlen
  next hb => exact ⟨h, Nat.lt_of_not_le hb, if_neg hb⟩

/-- `RE.PUT` that leaves no byte is the update alone, of a state below the bound. -/
theorem encSym_noBytes {c : Config} {f low : Nat} {d : Word × List Byte} (h : (encSym c f low d).2 = []) :
    d.2 = [] ∧ d.1.toNat < f * 2 ^ c.encBoundShift ∧
      encSym c f low d = (BitVec.ofNat 32 (encUpdate d.1.toNat f low), []) := by
  obtain ⟨hd, hlt, heq⟩ := shiftOut_noBytes h
  refine ⟨hd, hlt, ?_⟩
  rw [encSym, heq, hd]

section NoBytes
variable {c : Config} {freq low : Byte → Nat}

/-- `RD.GET` undoes a `RE.PUT` that left no byte, for a bound that keeps the update in the register (42_rans R180). -/
theorem decSym_encSym_noBytes (hshift : c.encBoundShift + 12 ≤ 32) {f low : Nat} (hl : low + f ≤ probScale)
    {d : Word × List Byte} (h : (encSym c f low d).2 = []) :
    (low ≤ (encSym c f low d).1.toNat % probScale ∧ (encSym c f low d).1.toNat % probScale < low + f) ∧
      decSym c f low (encSym c f low d) = d := by
  obtain ⟨hd, hlt, heq⟩ := encSym_noBytes h
  have hf : 1 ≤ f := Nat.pos_of_mul_pos_right (Nat.zero_lt_of_lt hlt)
  have hfits : encUpdate d.1.toNat f low < 2 ^ 32 := by
    calc encUpdate d.1.toNat f low < 2 ^ c.encBoundShift * probScale := encUpdate_lt hf hl hlt
      _ = 2 ^ (c.encBoundShift + 12) := (Nat.pow_add 2 _ 12).symm
      _ ≤ 2 ^ 32 := Nat.pow_le_pow_right (by decide) hshift
  have hmod := Nat.mod_lt d.1.toNat hf
  rw [heq, decSym]
  dsimp only
  rw [BitVec.toNat_ofNat, Nat.mod_eq_of_lt hfits, decUpdate_encUpdate hf hl, (encUpdate_slot hf hl).1, BitVec.ofNat_toNat,
    BitVec.setWidth_eq, shiftIn]
  exact ⟨by omega, Prod.ext rfl hd.symm⟩

/-- Decoding reverses encoding when no byte was emitted (42_rans R178, case 1). -/
theorem decodes_encAll_noBytes (hshift : c.encBoundShift + 12 ≤ 32) (hl : ∀ sym, low sym + freq sym ≤ probScale)
    {syms : List Byte} (h : (encAll c freq low syms).2 = []) :
    Decodes c freq low syms (encAll c freq low syms) (BitVec.ofNat 32 c.ransL, []) := by
  induction syms with
  | nil => rfl
  | cons sym syms ih =>
    obtain ⟨⟨hlow, hhigh⟩, hback⟩ := decSym_encSym_noBytes hshift (hl sym) h
    refine ⟨hlow, hhigh, ?_⟩
    rw [encAll, hback]
    exact ih (encSym_noBytes h).1

/-- Where a symbol was put and no byte emitted, the encoder has started below its bound. -/
theorem encoderFits_of_noBytes (hL : c.ransL < 2 ^ 32) (hl : ∀ sym, low sym + freq sym ≤ probScale) {syms : List Byte}
    (hne : syms ≠ []) (h : (encAll c freq low syms).2 = []) : EncoderFits c := by
  induction syms with
  | nil => exact absurd rfl hne
  | cons sym syms ih =>
    obtain ⟨hd, hlt, -⟩ := encSym_noBytes h
    by_cases hs : syms = []
    · subst hs
      rw [encAll, BitVec.toNat_ofNat, Nat.mod_eq_of_lt hL] at hlt
      refine hlt.trans_le ?_
      rw [Nat.mul_comm]
      exact Nat.mul_le_mul_left _ ((Nat.le_add_left _ _).trans (hl sym))
    · exact ih hs hd

end NoBytes

/-! ### What an accepted command of the encoder has done -/

/-- A command that ended `ok` has passed its checks. -/
theorem checked_eq_ok {α : Type} {c : Config} {pre : Bool} {inputs : List Space} {s t : State} {go : Unit → Res α} {a : α}
    (h : checked c pre inputs s go = .ok a t) : go () = .ok a t := by
  rcases checked_cases c pre inputs s go with hr | hr | ⟨-, -, hr⟩ <;> rw [hr] at h
  · cases h
  · cases h
  · exact h

theorem State.setReState_encoder (x : Word) (s : State) : (s.setReState x).encoder = (x, s.encoder.2) := by
  rw [State.encoder, State.setReState_len, State.stack_congr fun a _ => State.setReState_byte x s .rans a]
  rfl

/-- An accepted renormalise-out has pushed its bytes, whatever room there was. -/
theorem encoder_of_emitBytes_ok {c : Config} (hc : c.Bounded) {bound fuel : Nat} {s t : State}
    (h : emitBytes c bound fuel s = .ok () t) : t.encoder = shiftOut bound fuel s.encoder := by
  induction fuel generalizing s with
  | zero => cases h; rfl
  | succ fuel ih =>
    by_cases hb : bound ≤ s.reState.toNat
    · rw [emitBytes_step hb] at h
      obtain ⟨⟨⟩, u, hu, ht⟩ := Res.bind_eq_ok.mp h
      have hpush : u.encoder.2 = s.reState.extractLsb' 0 8 :: s.encoder.2 := append_rans_stack hc hu
      rw [ih ht, State.setReState_encoder, hpush, (append_rans_frame hu).2]
      exact (if_pos hb).symm
    · rw [emitBytes_done (Nat.lt_of_not_le hb)] at h
      cases h
      exact (if_neg hb).symm

theorem encoder_of_rePut_ok {c : Config} (hc : c.Bounded) {sym : Byte} {s t : State} (h : rePut c sym s = .ok () t) :
    t.encoder = encSym c (s.freq sym) (s.low sym) s.encoder := by
  have hgo := checked_eq_ok h
  dsimp only at hgo
  split at hgo
  · cases hgo
  · obtain ⟨⟨⟩, u, hu, ht⟩ := Res.bind_eq_ok.mp hgo
    cases ht
    rw [State.setReState_encoder, encSym, ← encoder_of_emitBytes_ok hc hu]
    rfl

/-- Accepted puts have pushed their symbols, and touched nothing but the encoder. -/
theorem encoder_of_putAll_ok {c : Config} (hc : c.Bounded) {syms put : List Byte} {s t : State}
    (hs : s.encoder = encAll c s.freq s.low put) (h : putAll c syms s = .ok () t) :
    t.encoder = encAll c s.freq s.low (syms.reverse ++ put) ∧ t.withoutEncoder = s.withoutEncoder := by
  induction syms generalizing s put with
  | nil => cases h; exact ⟨hs, rfl⟩
  | cons sym syms ih =>
    obtain ⟨⟨⟩, u, hu, ht⟩ := Res.bind_eq_ok.mp h
    have hframe := rePut_frame hu
    have hfreq := freq_of_withoutEncoder hframe
    have hlow := low_of_withoutEncoder hframe
    obtain ⟨henc, hframe'⟩ := ih (put := sym :: put)
      (by rw [hfreq, hlow, encoder_of_rePut_ok hc hu, hs, encAll]) ht
    rw [hfreq, hlow] at henc
    exact ⟨by simpa using henc, hframe'.trans hframe⟩

theorem reInit_encoder (c : Config) (freq low : Byte → Nat) (s : State) : (reInit c s).encoder = encAll c freq low [] := by
  have hlen : (reInit c s).len .rans = 0 := by simp [reInit]
  rw [State.encoder, hlen]
  rfl

/-- With no byte in `RANS` the encoder's stack is empty. -/
theorem State.encoder_snd_of_len {s : State} (h : s.len .rans = 0) : s.encoder.2 = [] := by
  rw [State.encoder, h]
  rfl

/-! ### Reversal -/

/-- What an open encoder has put comes back through `RE.FLUSH`, `RD.INIT` and `RD.GET`, where the decoder undoes the encoder. -/
theorem State.HasPut.comesBack {c : Config} (hc : c.Bounded) {t : State} {syms : List Byte} (h : t.HasPut c syms)
    (hm : t.ModelOk) (hroom : t.len .rans + 4 ≤ capacity c .rans) {e : Word × List Byte}
    (hdec : Decodes c t.freq t.low syms (encAll c t.freq t.low syms) e) :
    ∃ u v w, reFlush c t = .ok () u ∧ rdInit c u = .ok () v ∧ getAll c syms.length v = .ok syms w ∧ w.decoder = e := by
  obtain ⟨u, hu, hlen, hstack, hfield, hframe⟩ := reFlush_encoder hc h.re hroom
  obtain ⟨x, p, hv, hcode⟩ := rdInit_decoder (c := c) hlen (hlen.le.trans hroom)
  have hcode : ((u.setDecoder x p).setValid .rd).decoder = encAll c t.freq t.low syms := by
    rw [hcode, hfield, hstack]
    exact h.encoder
  have htables : u.withoutEncoder = (t.clearValid .re).withoutEncoder := by
    rw [hframe, clearValid_withoutEncoder, clearValid_withoutEncoder, setBuf_withoutEncoder]
  have hfreq : u.freq = t.freq := (freq_of_withoutEncoder htables :)
  have hlow : u.low = t.low := (low_of_withoutEncoder htables :)
  have hmu : u.ModelOk := modelOk_of_withoutEncoder (s := t.clearValid .re) htables hm
  have hss : u.isValid .ss = true := by
    rw [isValid_of_withoutEncoder htables, State.clearValid_isValid, h.ss]
    rfl
  have hdecodes : Decodes c u.freq u.low syms ((u.setDecoder x p).setValid .rd).decoder e := by
    rw [hcode, hfreq, hlow]
    exact hdec
  obtain ⟨w, hw, hend⟩ := getAll_decodes (s := (u.setDecoder x p).setValid .rd)
    (by simp [State.setValid_isValid]) (by simp [State.setValid_isValid, hss])
    hmu (by simpa [hlen] using hroom) hdecodes
  exact ⟨u, _, w, hu, hv, hw, hend⟩

/-- Settles O30: the puts have pushed the symbols (`encoder_of_putAll_ok`), no byte stands in `RANS`, so each `RD.GET` undoes its
`RE.PUT` (`decodes_encAll_noBytes`). -/
theorem reversalWithoutRenormalisation : Obligations.ReversalWithoutRenormalisation := by
  intro c s t syms hc _ hshift hss hm _ hput hlen
  obtain ⟨henc, hframe⟩ := encoder_of_putAll_ok hc (reInit_encoder c _ _ s) hput
  have hinit := reInit_hasPut c hss
  have hmt : t.ModelOk := modelOk_of_withoutEncoder (s := reInit c s) hframe hm
  rw [List.append_nil, ← freq_of_withoutEncoder hframe, ← low_of_withoutEncoder hframe] at henc
  have hhas : t.HasPut c syms.reverse :=
    ⟨(isValid_of_withoutEncoder hframe _).trans hinit.re, (isValid_of_withoutEncoder hframe _).trans hinit.ss, henc⟩
  have hnone : (encAll c t.freq t.low syms.reverse).2 = [] := henc ▸ State.encoder_snd_of_len hlen
  have hdec := decodes_encAll_noBytes hshift hmt.freq_le hnone
  obtain ⟨u, v, w, hu, hv, hw, hend⟩ := hhas.comesBack hc hmt (by rw [hlen]; simp only [capacity]; omega) hdec
  rw [List.length_reverse] at hw
  refine ⟨u, v, w, hu, hv, hw, congrArg Prod.fst hend, BitVec.eq_of_toNat_eq ?_⟩
  have hstack : (w.stack w.rdPtr.toNat).length = 0 := congrArg (fun d => d.2.length) hend
  rwa [State.stack_length] at hstack

/-! ### The round trip -/

/-- A command that ends with no error has ended `ok`. -/
theorem body_ok_of_exec {i : Instr} {s t : State} (hi : i ≠ .reset) (hs : s.err = 0#4) (h : exec i s = .next t)
    (ht : t.err = 0#4) : ∃ u, bodyOf i s = .ok () u ∧ t = { u with status := mkStatus 0#4 true } := by
  cases hb : bodyOf i s with
  | ok a u =>
    rw [exec_of_ok hi hs hb] at h
    cases h
    exact ⟨u, rfl, rfl⟩
  | raised k u =>
    obtain ⟨-, hu, -⟩ := Res.keeps_raised_iff.mp (hb ▸ bodyOf_keeps i s)
    rw [exec_eq_command hi, command_raised hs hb] at h
    cases h
    rw [State.takeFault, State.setDone_err, State.recordErr_err, if_pos ((State.err_eq_of_status hu).trans hs)] at ht
    exact absurd ht k.code_ne_zero
  | refused =>
    rw [exec_of_refused hi hs hb] at h
    cases h
    exact absurd ((mkStatus_fields 12#4 true).1.symm.trans ht) (by decide)

theorem reFlush_len_of_ok {c : Config} (hc : c.Bounded) {s t : State} (h : reFlush c s = .ok () t) :
    t.len .rans = s.len .rans + 4 := by
  obtain ⟨⟨⟩, u, hu, ht⟩ := Res.bind_eq_ok.mp (checked_eq_ok h)
  obtain ⟨-, hlen, -⟩ := appendList_spec hc hu
  cases ht
  exact (State.clearValid_len _ _ _).trans hlen

/-- The first piece of a cover is a literal: a match has a source before it (43_lz77 R193, R196). -/
theorem Covers.lits_ne_nil {f : Nat → Byte} {n : Nat} {ps : List Piece} (h : Covers f 0 ps n) (hn : 1 ≤ n) :
    litsOf ps ≠ [] := by
  cases ps with
  | nil =>
    have : 0 = n := h
    omega
  | cons pc ps =>
    cases pc with
    | lit b => simp [litsOf, Piece.lits]
    | mtch dist len =>
      obtain ⟨h1, h2, -⟩ := h.1
      omega

/-- Where `COMPRESS` ended with four bytes in `RANS`, its encoder has started below its bound. -/
theorem encoderFits_of_compressStages {c : Config} (hc : c.Bounded) (hL : c.ransL < 2 ^ 32) {s t : State} (h1 : 1 ≤ s.len .inp)
    (hn : s.len .inp ≤ c.nMax) (h : compressStages c s = .ok () t) (hlen : t.len .rans = 4) : EncoderFits c := by
  obtain ⟨r, fs, hcount, hmodel, -⟩ := ssCount_model h1 hn
  have hinp : ((s.setRaw r).putModel fs).len .inp = s.len .inp := State.len_congr (by simp [State.putModel])
  obtain ⟨s₃, s₄, ps, hparse, hflush, hpieces, -, -, -, hbeside, -⟩ := parse_and_flush hc (s := (s.setRaw r).putModel fs)
    (by rwa [hinp])
  have hm := ((putModel_hasTables fs (s.setRaw r)).congr hbeside).modelOk hmodel
  rw [compressStages, hcount, Res.bind_ok, hparse, Res.bind_ok, hflush, Res.bind_ok] at h
  obtain ⟨⟨⟩, s₆, hput, h⟩ := Res.bind_eq_ok.mp h
  obtain ⟨⟨⟩, s₇, hre, h⟩ := Res.bind_eq_ok.mp h
  obtain ⟨⟨⟩, s₈, hstore, hpack⟩ := Res.bind_eq_ok.mp h
  cases checked_eq_ok hstore
  cases checked_eq_ok hpack
  have hlen₇ : s₇.len .rans = 4 :=
    (State.len_congr ((packed_buf (by decide) (stored s₇)).trans (stored_buf (by decide) s₇))).symm.trans hlen
  have hlen₆ : s₆.len .rans = 0 := by
    have := reFlush_len_of_ok hc hre
    omega
  have hlits : (reInit c s₄).bytes .lit 0 (s₄.len .lit) = litsOf ps := by
    rw [← hpieces.lits, State.contents]
    exact State.bytes_congr (by simp [reInit, State.setLen]) 0 _
  rw [putLiterals_eq_putAll, hlits] at hput
  obtain ⟨henc, -⟩ := encoder_of_putAll_ok hc (reInit_encoder c _ _ s₄) hput
  rw [List.reverse_reverse, List.append_nil] at henc
  refine encoderFits_of_noBytes hL (freq := s₄.freq) (low := s₄.low) hm.freq_le
    (hpieces.covers.lits_ne_nil (by rwa [hinp])) ?_
  have hempty := State.encoder_snd_of_len hlen₆
  rwa [henc] at hempty

theorem encoderFits_of_compress {c : Config} (hc : c.Bounded) (hL : c.ransL < 2 ^ 32) {s t : State} (h1 : 1 ≤ s.len .inp)
    (hn : s.len .inp ≤ c.nMax) (h : compress c s = .ok () t) (hlen : t.len .rans = 4) : EncoderFits c := by
  have hinp : (s.reinit c .inp).len .inp = s.len .inp := rfl
  have hgo := checked_eq_ok h
  dsimp only at hgo
  rw [if_neg (by omega)] at hgo
  exact encoderFits_of_compressStages hc hL (hinp ▸ h1) (hinp ▸ hn) hgo hlen

/-- Settles O50: the encoder has started below its bound (`encoderFits_of_compress`), so `COMPRESS` leaves what `Compressed` says;
without a renormalisation byte the rANS decoder returns the literals (`decodes_encAll_noBytes`), and so `DECOMPRESS` the input. -/
theorem roundTripWithoutRenormalisation : Obligations.RoundTripWithoutRenormalisation := by
  intro s t' hs hc hL hshift h1 hn hexec herr hlen
  obtain ⟨t, ht, rfl⟩ := body_ok_of_exec (by decide) hs hexec herr
  have hcfg : t.cfg = s.cfg := (Res.keeps_ok_iff.mp (ht ▸ bodyOf_keeps .compress s)).2
  obtain ⟨t₁, ps, fs, m, ht₁, h⟩ := compress_compressed hc
    (encoderFits_of_compress hc (hL.trans_lt (by decide)) h1 hn ht hlen) h1 hn
  obtain rfl : t₁ = t := by
    cases ht₁.symm.trans ht
    rfl
  obtain rfl : m = 0 := by
    have hcode : t₁.len .rans = m + 4 := h.code.len
    have : t₁.len .rans = 4 := hlen
    omega
  have hnone : (encAll s.cfg t₁.freq t₁.low (litsOf ps)).2 = [] := congrArg Prod.snd h.code.code.symm
  have hdec := decodes_encAll_noBytes hshift (h.tables.modelOk h.model).freq_le hnone
  obtain ⟨u, hu, hout, hbytes⟩ := h.decompress hc hn (t' := { t₁ with status := mkStatus 0#4 true }) rfl hdec
  have hbody : bodyOf .decompress { t₁ with status := mkStatus 0#4 true } = .ok () u := by
    rw [← hu, ← hcfg]
    rfl
  exact ⟨_, exec_of_ok (by decide) herr hbody, rfl, hout, hbytes⟩

end Sys2Proof.Machine


/-! PROOFS. The parser's streams replayed (spec 43_lz77 R198). -/

namespace Sys2Proof.Machine

/-! ### A parse from the start of the input -/

/-- After `LZ.INIT` the pieces put out are the whole contents of `LIT` and `MATCH`, and cover the input from its first byte. -/
theorem Parsed.whole {s t : State} {ps : List Piece} (h : Parsed (lzInit s) t ps) (hend : t.lzP.toNat = s.len .inp) :
    Covers (s.byte .inp) 0 ps (s.len .inp) ∧ t.contents .lit = litsOf ps ∧ t.contents .mtch = recordsOf ps := by
  obtain ⟨-, hlit, hmtch⟩ := lzInit_lens s
  refine ⟨?_, ?_, ?_⟩
  · have hbyte : (lzInit s).byte .inp = s.byte .inp := by
      funext a
      simp [lzInit]
    have hcov := h.covers
    rwa [hbyte, hend, show (lzInit s).lzP.toNat = 0 by simp [lzInit]] at hcov
  · rw [h.lits, State.contents, hlit]
    rfl
  · rw [h.records, State.contents, hmtch]
    rfl

/-! ### Replaying the pieces -/

/-- A copy whose source holds the bytes that follow goes on with `f`; the source may run into the copy. -/
theorem copyForward_range {f : Nat → Byte} {n src p : Nat} (hsrc : src < p) (hsame : ∀ k, k < n → f (src + k) = f (p + k)) :
    copyForward n src ((List.range p).map f) = (List.range (p + n)).map f := by
  induction n generalizing src p with
  | zero => rfl
  | succ n ih =>
    have hnext : (List.range p).map f ++ [((List.range p).map f).getD src 0#8] = (List.range (p + 1)).map f := by
      rw [List.getD_eq_getElem _ _ (by simpa using hsrc), List.range_succ, List.map_append]
      simpa using hsame 0 (by omega)
    rw [copyForward, hnext, ih (by omega) fun k hk => ?_, Nat.add_right_comm, Nat.add_assoc]
    have := hsame (k + 1) (by omega)
    rwa [← Nat.add_assoc, ← Nat.add_assoc, Nat.add_right_comm, Nat.add_right_comm p] at this

/-- Pieces that cover `f` from `p` to `q` replay, behind its first `p` bytes, to its first `q` bytes (43_lz77 R198). -/
theorem Covers.replays {f : Nat → Byte} {p q : Nat} {ps : List Piece} (h : Covers f p ps q) :
    replay (ps.map Piece.flag) (litsOf ps) (recordsOf ps) ((List.range p).map f) = some ((List.range q).map f) := by
  induction ps generalizing p with
  | nil =>
    obtain rfl : p = q := h
    rfl
  | cons pc ps ih =>
    obtain ⟨hat, hrest⟩ := h
    rw [← ih hrest]
    cases pc with
    | lit b =>
      obtain rfl : b = f p := hat
      change replay _ _ _ ((List.range p).map f ++ [f p]) = _
      rw [Piece.width, List.range_succ, List.map_append]
      rfl
    | mtch dist len =>
      obtain ⟨h1, hp, -, -, hsame⟩ := hat
      change (if (le16 _ _).toNat = 0 ∨ _ then none else replay _ _ _ (copyForward _ _ _)) = _
      rw [le16_bytesLe16, List.length_map, List.length_range, if_neg (by omega), copyForward_range (by omega) hsame]
      rfl

/-- Settles O34: the streams are those of pieces that cover the input (`lzParse_parsed`), and a cover replays to what it covers
(`Covers.replays`). -/
theorem parserReproducesInput : Obligations.ParserReproducesInput := by
  intro s hs hn hc ho hflags hcnt hcur
  have hempty : s.writerBits = [] := by
    rw [← List.length_eq_zero_iff, State.writerBits_length, hflags, hcnt]
    rfl
  obtain ⟨t, ps, ht, hps, hend⟩ := lzParse_parsed hc hn ho (writerInv_of_empty hcur)
    (by simp only [hempty, List.length_nil, capacity, ceilDiv8]; omega)
  obtain ⟨hcov, hlit, hmtch⟩ := hps.whole hend
  refine ⟨_, exec_of_ok (i := .lzParse) (by decide) hs ht, ?_⟩
  change replay t.writerBits (t.contents .lit) (t.contents .mtch) [] = _
  rw [hps.bits, lzInit_writerBits, hempty, List.nil_append, hlit, hmtch]
  have hreplay := hcov.replays
  simpa [State.contents, State.bytes] using hreplay

end Sys2Proof.Machine


/-! PROOFS. What `LZ.PARSE` leaves (spec 43_lz77 R193, R197): the counts of its streams, whatever bits the BitWriter held. -/

namespace Sys2Proof.Machine

/-! ### A parse does not read the bits the BitWriter holds -/

/-- The state but for the bits the BitWriter holds: how many they are stays. -/
def State.withoutBits (s : State) : State := (s.setBuf .flags { s.flags with mem := [] }).setWriter 0#8 s.bwCnt

/-- How an operation ends, but for the bits the BitWriter holds. -/
def Res.withoutBits {α : Type} : Res α → Res α
  | .ok a s => .ok a s.withoutBits
  | .raised k s => .raised k s.withoutBits
  | .refused => .refused

/-- An operation that, but for those bits, ends alike whatever they are. -/
def BitBlind {α : Type} (f : State → Res α) : Prop := ∀ s, (f s.withoutBits).withoutBits = (f s).withoutBits

section BitBlind
variable {α β : Type} {c : Config}

theorem Res.withoutBits_eq_ok {r : Res α} {a : α} {u : State} (h : r.withoutBits = .ok a u) :
    ∃ t, r = .ok a t ∧ t.withoutBits = u := by
  cases r <;> cases h
  exact ⟨_, rfl, rfl⟩

/-- What comes behind does not depend on the bits the first part leaves. -/
theorem Res.withoutBits_bind {g : α → State → Res β} (hg : ∀ a, BitBlind (g a)) (r : Res α) :
    (r.withoutBits.bind g).withoutBits = (r.bind g).withoutBits := by
  cases r with
  | ok a t => exact hg a t
  | raised k t => rfl
  | refused => rfl

theorem BitBlind.bind {f : State → Res α} {g : α → State → Res β} (hf : BitBlind f) (hg : ∀ a, BitBlind (g a)) :
    BitBlind fun s => (f s).bind g := by
  intro s
  rw [← Res.withoutBits_bind hg, hf s, Res.withoutBits_bind hg]

theorem BitBlind.ite {p : State → Prop} [DecidablePred p] {f g : State → Res α} (hp : ∀ s, p s.withoutBits ↔ p s)
    (hf : BitBlind f) (hg : BitBlind g) : BitBlind fun s => if p s then f s else g s := by
  intro s
  by_cases h : p s
  · simpa only [if_pos h, if_pos ((hp s).mpr h)] using hf s
  · simpa only [if_neg h, if_neg (mt (hp s).mp h)] using hg s

theorem State.withoutBits_buf (sp : Space) (s : State) :
    (s.withoutBits.buf sp).len = (s.buf sp).len ∧ (s.withoutBits.buf sp).gen = (s.buf sp).gen ∧
      (sp ≠ .flags → (s.withoutBits.buf sp).mem = (s.buf sp).mem) := by
  cases sp
  case flags => exact ⟨rfl, rfl, fun h => absurd rfl h⟩
  all_goals exact ⟨rfl, rfl, fun _ => rfl⟩

theorem State.withoutBits_len (s : State) (sp : Space) : s.withoutBits.len sp = s.len sp :=
  congrArg BitVec.toNat (s.withoutBits_buf sp).1

/-- Two buffers put into a space, which may differ by their bytes where the space is `FLAGS`. -/
theorem State.withoutBits_setBuf {sp : Space} {b b' : Buf} (s : State) (hlen : b'.len = b.len) (hgen : b'.gen = b.gen)
    (hmem : sp ≠ .flags → b'.mem = b.mem) : (s.withoutBits.setBuf sp b').withoutBits = (s.setBuf sp b).withoutBits := by
  obtain ⟨l, m, g⟩ := b
  obtain ⟨l', m', g'⟩ := b'
  obtain rfl : l' = l := hlen
  obtain rfl : g' = g := hgen
  cases sp
  case flags => rfl
  all_goals
    obtain rfl : m' = m := hmem (by decide)
    cases s
    rfl

theorem checked_bitBlind {pre : State → Bool} {inputs : List Space} {go : State → Res α}
    (hpre : ∀ s, pre s.withoutBits = pre s) (hgo : BitBlind go) :
    BitBlind fun s => checked c (pre s) inputs s fun _ => go s := by
  refine BitBlind.ite (fun s => by rw [hpre]) (fun _ => rfl) (BitBlind.ite (fun s => ?_) (fun _ => rfl) hgo)
  simp only [State.withoutBits_len]

/-- Two appends end alike; the bytes appended may differ where the buffer is `FLAGS`. -/
theorem append_withoutBits {sp : Space} {b b' : Byte} (hb : sp ≠ .flags → b' = b) (s : State) :
    (append c sp b' s.withoutBits).withoutBits = (append c sp b s).withoutBits := by
  obtain ⟨hlen, hgen, hmem⟩ := s.withoutBits_buf sp
  have hset (b : Byte) (t : State) : t.appended sp b =
      t.setBuf sp ⟨(t.buf sp).len + 1#32, (t.buf sp).mem.setList (t.len sp) [b], (t.buf sp).gen⟩ := by
    simp [State.appended, State.setLen, State.writeBytes]
  have happended : (s.withoutBits.appended sp b').withoutBits = (s.appended sp b).withoutBits := by
    rw [hset, hset]
    exact s.withoutBits_setBuf (by rw [hlen]) hgen fun h => by rw [hb h, hmem h, State.withoutBits_len]
  have happend (b : Byte) (t : State) : append c sp b t =
      if t.len sp < capacity c sp then .ok () (t.appended sp b) else .refused := rfl
  rw [happend, happend, State.withoutBits_len]
  split
  · exact congrArg (Res.ok ()) happended
  · rfl

theorem append_bitBlind (sp : Space) (b : Byte) : BitBlind (append c sp b) := append_withoutBits fun _ => rfl

theorem appendList_bitBlind (sp : Space) (bs : List Byte) : BitBlind (appendList c sp bs) := by
  induction bs with
  | nil => exact fun _ => rfl
  | cons b bs ih => exact (append_bitBlind sp b).bind fun _ => ih

theorem update_bitBlind {g : State → State} (hg : ∀ s, (g s.withoutBits).withoutBits = (g s).withoutBits) :
    BitBlind fun s => .ok () (g s) := fun s => congrArg (Res.ok ()) (hg s)

theorem setWriter_bitBlind (cur : Byte) (cnt : BitVec 3) : BitBlind fun s => .ok () (s.setWriter cur cnt) :=
  update_bitBlind fun s => by
    cases s
    rfl

theorem bwWbit_bitBlind (b : Bool) : BitBlind (bwWbit c b) := by
  refine checked_bitBlind (fun _ => rfl) (BitBlind.ite (fun _ => Iff.rfl) (fun s => ?_) (update_bitBlind fun s => ?_))
  · rw [← Res.withoutBits_bind fun _ => setWriter_bitBlind _ _, append_withoutBits fun h => absurd rfl h,
      Res.withoutBits_bind fun _ => setWriter_bitBlind _ _]
  · cases s
    rfl

theorem putToken_bitBlind (sp : Space) (bs : List Byte) (flag : Bool) (n : Word) : BitBlind (putToken c sp bs flag n) := by
  refine (appendList_bitBlind sp bs).bind fun _ => (bwWbit_bitBlind flag).bind fun _ => update_bitBlind fun s => ?_
  cases s
  rfl

theorem lzEmit_bitBlind (p : Nat) (best : Nat × Nat) : BitBlind (lzEmit c p best) := by
  intro s
  rw [lzEmit_eq_putToken, lzEmit_eq_putToken]
  split
  · exact putToken_bitBlind _ _ _ _ s
  · exact putToken_bitBlind _ [s.byte .inp p] _ _ s

theorem lzStep_bitBlind : BitBlind (lzStep c) :=
  checked_bitBlind (fun _ => rfl) fun s => lzEmit_bitBlind s.lzP.toNat (searchAt (s.byte .inp) (s.len .inp) s.lzP.toNat) s

theorem lzLoop_bitBlind (fuel : Nat) : BitBlind (lzLoop c fuel) := by
  induction fuel with
  | zero => exact fun _ => rfl
  | succ fuel ih => exact BitBlind.ite (fun _ => Iff.rfl) (lzStep_bitBlind.bind fun _ => ih) fun _ => rfl

theorem lzInit_withoutBits (s : State) : lzInit s.withoutBits = (lzInit s).withoutBits := by
  cases s
  rfl

theorem lzParse_bitBlind : BitBlind (lzParse c) := by
  refine checked_bitBlind (fun _ => rfl) fun s => ?_
  rw [lzInit_withoutBits]
  exact lzLoop_bitBlind (s.len .inp) (lzInit s)

end BitBlind

/-! ### Counting the pieces -/

/-- The first pieces of a cover are literals: a match has three bytes before it (43_lz77 R193, R196). -/
theorem Covers.first_lits {f : Nat → Byte} {p q : Nat} {ps : List Piece} (h : Covers f p ps q) :
    min q 3 ≤ p + (litsOf ps).length := by
  induction ps generalizing p with
  | nil =>
    obtain rfl : p = q := h
    omega
  | cons pc ps ih =>
    obtain ⟨hat, hrest⟩ := h
    rw [litsOf, List.flatMap_cons, List.length_append]
    cases pc with
    | lit b =>
      have := ih hrest
      simp only [Piece.width, litsOf, Piece.lits, List.length_singleton] at this ⊢
      omega
    | mtch dist len =>
      obtain ⟨-, hp, h3, hlen, -⟩ := hat
      have hmin : minMatch = 3 := rfl
      omega

/-- The literals of a cover and the lengths in its match records add up to what it covers (43_lz77 R193). -/
theorem Covers.sum_lengths {f : Nat → Byte} {p q m : Nat} {ps : List Piece} (h : Covers f p ps q)
    (hm : (recordsOf ps).length = 3 * m) :
    p + (litsOf ps).length + ((List.range m).map fun k => ((recordsOf ps).getD (3 * k + 2) 0#8).toNat).sum = q := by
  induction ps generalizing p m with
  | nil =>
    obtain rfl : p = q := h
    obtain rfl : m = 0 := by simpa [recordsOf] using hm
    rfl
  | cons pc ps ih =>
    obtain ⟨-, hrest⟩ := h
    cases pc with
    | lit b =>
      rw [← ih hrest hm]
      change p + ((litsOf ps).length + 1) + _ = p + 1 + _ + _
      rw [Nat.add_right_comm p 1]
      rfl
    | mtch dist len =>
      change (recordsOf ps).length + 3 = 3 * m at hm
      obtain ⟨m, rfl⟩ : ∃ m', m = m' + 1 := ⟨m - 1, by omega⟩
      have hq := ih hrest (m := m) (by omega)
      rw [List.range_succ_eq_map, List.map_cons, List.map_map, List.sum_cons]
      change p + (litsOf ps).length + (len.toNat +
        ((List.range m).map fun k => ((recordsOf ps).getD (3 * k + 2) 0#8).toNat).sum) = q
      rw [Piece.width] at hq
      omega

/-! ### `LZ.PARSE` -/

/-- `LZ.PARSE` over any bits the BitWriter holds, stray ones in `BW.cur` included, where `WriterInv` fails: a parse over zeros in
their place does the same (`lzParse_bitBlind`). -/
theorem lzParse_covers {c : Config} (hc : c.Bounded) {s : State} (hn : s.len .inp ≤ c.nMax) (ho : bwOpen c s = true)
    (hroom : s.len .flags + (s.bwCnt.toNat + s.len .inp) / 8 ≤ capacity c .flags) :
    ∃ t ps, lzParse c s = .ok () t ∧ Covers (s.byte .inp) 0 ps (s.len .inp) ∧ t.lzP = s.inp.len ∧
      t.contents .lit = litsOf ps ∧ t.contents .mtch = recordsOf ps ∧
      t.writerBits.length = s.writerBits.length + ps.length ∧ t.valid = s.valid ||| 0x10#8 := by
  have hlen : s.withoutBits.writerBits.length = s.writerBits.length := by
    rw [State.writerBits_length, State.writerBits_length, State.withoutBits_len]
    rfl
  obtain ⟨t₀, ps, ht₀, hps, hend⟩ := lzParse_parsed hc (s := s.withoutBits) hn ho (writerInv_of_empty rfl) (by
    rw [hlen, State.writerBits_length, State.withoutBits_len]
    omega)
  obtain ⟨hcov, hlit, hmtch⟩ := hps.whole hend
  obtain ⟨t, ht, htt₀⟩ := Res.withoutBits_eq_ok ((lzParse_bitBlind s).symm.trans (congrArg Res.withoutBits ht₀))
  have hbuf : ∀ sp, sp ≠ .flags → t.buf sp = t₀.buf sp := fun sp hsp => by
    simpa [State.withoutBits, hsp] using congrArg (fun u => u.buf sp) htt₀
  have hflags : t.len .flags = t₀.len .flags := by
    simpa only [State.withoutBits_len] using congrArg (fun u => u.len .flags) htt₀
  have hcnt : t.bwCnt = t₀.bwCnt := by simpa [State.withoutBits] using congrArg State.bwCnt htt₀
  have hlzP : t.lzP = t₀.lzP := by simpa [State.withoutBits] using congrArg State.lzP htt₀
  have hvalid : t.valid = t₀.valid := by simpa [State.withoutBits] using congrArg State.valid htt₀
  refine ⟨t, ps, ht, hcov, ?_, ?_, ?_, ?_, ?_⟩
  · rw [hlzP]
    exact BitVec.eq_of_toNat_eq hend
  · rw [State.contents_congr (hbuf .lit (by decide)), hlit]
  · rw [State.contents_congr (hbuf .mtch (by decide)), hmtch]
  · rw [State.writerBits_length, hflags, hcnt, ← State.writerBits_length, hps.bits, lzInit_writerBits, List.length_append,
      hlen, List.length_map]
  · rw [hvalid, valid_of_withoutParser hps.frame]
    simp [lzInit, State.setValid, ValidBit.index, State.withoutBits]

/-- Settles O33: the parse covers the input with its pieces (`lzParse_covers`); the counts are those of a cover
(`Covers.first_lits`, `Covers.sum_lengths`, `recordsOf_length`). -/
theorem lzParseResult : Obligations.LzParseResult := by
  intro s hs
  refine ⟨fun hn hc ho hroom => ?_, (inputBufferOverflow s hs).1 .lzParse .inp (by simp)⟩
  obtain ⟨t, ps, ht, hcov, hlzP, hlit, hmtch, hbits, hvalid⟩ := lzParse_covers hc hn ho hroom
  have hexec := exec_of_ok (i := .lzParse) (by decide) hs ht
  obtain ⟨m, hm, hps⟩ := recordsOf_length ps
  have hlitLen : t.len .lit = (litsOf ps).length := by rw [← State.contents_length, hlit]
  have hmtchLen : t.len .mtch = 3 * m := by rw [← State.contents_length, hmtch, hm]
  have hrec : ∀ k ∈ List.range m, (t.byte .mtch (3 * k + 2)).toNat = ((recordsOf ps).getD (3 * k + 2) 0#8).toNat := by
    intro k hk
    have hlt : 3 * k + 2 < (t.contents .mtch).length := by
      rw [State.contents_length, hmtchLen]
      have := List.mem_range.mp hk
      omega
    rw [← hmtch, List.getD_eq_getElem _ _ hlt, State.contents_getElem]
  have hsum := hcov.sum_lengths hm
  have hfirst := hcov.first_lits
  rw [Nat.zero_add] at hsum hfirst
  rw [State.writerBits_length, State.writerBits_length, hps, ← hlitLen] at hbits
  rw [← List.map_congr_left hrec, ← hlitLen] at hsum
  exact ⟨_, m, hexec, rfl, hlzP, hmtchLen, hsum, hlitLen ▸ hfirst, hbits, hvalid,
    (frameOfCommandsThatStore .lzParse s _ hc (.inr (by decide)) hexec).1⟩

end Sys2Proof.Machine


/-! PROOFS. The container's commands (spec 44_container R212, R214, R216, R217; 60_exceptions R262, R267, R274). -/

namespace Sys2Proof.Machine

/-! ### `CT.PACK` -/

/-- The artifact of a stored model and of regions that fit has room in `ART` (44_container R216, 20_memory R70). -/
theorem packBytes_fits {c : Config} {s : State} (hm : s.len .model = 512)
    (hfits : ∀ sp ∈ [Space.rans, .flags, .mtch, .model], s.len sp ≤ capacity c sp) :
    (packBytes s).length ≤ capacity c .art := by
  have hrans := hfits .rans (by simp)
  have hflags := hfits .flags (by simp)
  have hmtch := hfits .mtch (by simp)
  rw [packBytes_length, hm]
  simp only [capacity, headerSize, modelSize] at hrans hflags hmtch ⊢
  omega

/-- An accepted `CT.PACK` has passed its checks and leaves the packed state. -/
theorem ctPack_eq_ok {c : Config} {s t : State} (h : ctPack c s = .ok () t) :
    s.len .model = 512 ∧ (∀ sp ∈ [Space.rans, .flags, .mtch, .model], s.len sp ≤ capacity c sp) ∧ t = packed s := by
  rw [ctPack] at h
  rcases checked_cases c _ _ s _ with hr | hr | ⟨hpre, hfits, hr⟩ <;> rw [hr] at h
  · cases h
  · cases h
  · simp only [Bool.and_eq_true, beq_iff_eq] at hpre
    obtain ⟨⟨hm, -⟩, -⟩ := hpre
    cases h
    exact ⟨hm, hfits, rfl⟩

/-- An artifact and its header stand in every state with the same buffers and header registers. -/
theorem State.HoldsArtifact.congr {t u : State} (h : t.HoldsArtifact) (hb : u.buf = t.buf) (hh : u.hdr = t.hdr) :
    u.HoldsArtifact := by
  have hbuf := congrFun hb
  refine ⟨?_, ?_⟩
  · rw [State.contents_congr (hbuf .art), h.art, packBytes_congr fun sp _ => hbuf sp]
  · rw [hh, h.hdr]
    simp only [packHeader, Header.mk.injEq, true_and]
    exact ⟨(congrArg Buf.len (hbuf .inp)).symm, (congrArg Buf.len (hbuf .rans)).symm, (congrArg Buf.len (hbuf .flags)).symm,
      (congrArg Buf.len (hbuf .mtch)).symm, (congrArg Buf.len (hbuf .model)).symm⟩

theorem withStatus_buf (s : State) (v : BitVec 8) : { s with status := v }.buf = s.buf := rfl

/-- What a `CT.PACK` that ended `ok` leaves (44_container R212). -/
structure Packed (s t : State) : Prop where
  modelLen : s.len .model = 512
  fits : ∀ sp ∈ [Space.rans, .flags, .mtch, .model], s.len sp ≤ capacity s.cfg sp
  artifact : t.HoldsArtifact
  hdr : t.hdr = packHeader s
  valid : t.valid = s.valid ||| 0x20#8
  cfg : t.cfg = s.cfg
  buf : ∀ sp, sp ≠ .art → t.buf sp = s.buf sp

theorem exec_ctPack_packed {s t : State} (hs : s.err = 0#4) (hc : s.cfg.Bounded) (h : exec .ctPack s = .next t)
    (ht : t.err = 0#4) : Packed s t := by
  obtain ⟨u, hu, rfl⟩ := body_ok_of_exec (by decide) hs h ht
  obtain ⟨hm, hfits, rfl⟩ := ctPack_eq_ok hu
  have ha := packed_holdsArtifact ((packBytes_fits hm hfits).trans_lt (capacity_lt hc .art))
  exact {
    modelLen := hm
    fits := hfits
    artifact := ha.congr (withStatus_buf _ _) rfl
    hdr := by simp [packed]
    valid := by simp [packed, State.setValid, ValidBit.index]
    cfg := by simp [packed]
    buf := fun sp hsp => (congrFun (withStatus_buf _ _) sp).trans (packed_buf hsp s) }

section Packed
variable {s t : State} (h : Packed s t)
include h

theorem Packed.len {sp : Space} (hsp : sp ≠ .art) : t.len sp = s.len sp := State.len_congr (h.buf sp hsp)

theorem Packed.byte {sp : Space} (hsp : sp ≠ .art) (a : Nat) : t.byte sp a = s.byte sp a := State.byte_congr (h.buf sp hsp) a

/-- The header registers are those R212 lists, with the size of a stored model. -/
theorem Packed.header : t.hdr = { packHeader s with modelSize := 512#32 } := by
  have hsize : (packHeader s).modelSize = 512#32 := BitVec.eq_of_toNat_eq (Eq.trans (b := 512) h.modelLen rfl)
  rw [h.hdr, ← hsize]

theorem Packed.artLen : t.len .art = 24 + s.len .rans + s.len .flags + s.len .mtch + 512 := by
  rw [h.artifact.len, h.len (by decide), h.len (by decide), h.len (by decide), h.len (by decide), h.modelLen]

theorem Packed.numbers : t.number32 .art 0 = 0x4D49444F ∧ t.number32 .art 4 = s.len .inp ∧ t.number32 .art 8 = s.len .rans ∧
    t.number32 .art 12 = s.len .flags ∧ t.number32 .art 16 = s.len .mtch ∧ t.number32 .art 20 = 512 := by
  have hn := h.artifact.numbers
  rwa [h.len (by decide), h.len (by decide), h.len (by decide), h.len (by decide), h.len (by decide), h.modelLen] at hn

/-- The regions of `s` stand in the artifact in order (20_memory R66). -/
theorem Packed.regions :
    (∀ k, k < s.len .rans → t.byte .art (24 + k) = s.byte .rans k) ∧
      (∀ k, k < s.len .flags → t.byte .art (24 + s.len .rans + k) = s.byte .flags k) ∧
      (∀ k, k < s.len .mtch → t.byte .art (24 + s.len .rans + s.len .flags + k) = s.byte .mtch k) ∧
      (∀ k, k < 512 → t.byte .art (24 + s.len .rans + s.len .flags + s.len .mtch + k) = s.byte .model k) := by
  have hr := h.artifact.regions
  rw [h.len (by decide), h.len (by decide), h.len (by decide), h.len (by decide), h.modelLen] at hr
  simpa only [h.byte (sp := .rans) (by decide), h.byte (sp := .flags) (by decide), h.byte (sp := .mtch) (by decide),
    h.byte (sp := .model) (by decide)] using hr

end Packed

/-- Settles O35: an accepted `CT.PACK` leaves the artifact of the four regions (`exec_ctPack_packed`); the frame is that of a command
that stores in `ART` alone (`exec_storesIn`). -/
theorem ctPackResult : Obligations.CtPackResult := by
  intro s hs
  refine ⟨fun hm hcnt hre hc hrans hflags hmtch => ?_, fun h => ?_⟩
  · have hfits : ∀ sp ∈ [Space.rans, .flags, .mtch, .model], s.len sp ≤ capacity s.cfg sp := by
      simp [hrans, hflags, hmtch, hm, show capacity s.cfg .model = 512 from rfl]
    obtain ⟨t, hexec, hstatus⟩ : ∃ t, exec .ctPack s = .next t ∧ t.status = mkStatus 0#4 true :=
      ⟨_, exec_of_ok (by decide) hs (ctPack_packed hm hcnt hre hfits), rfl⟩
    have hp := exec_ctPack_packed hs hc hexec (by rw [State.err, hstatus]; decide)
    obtain ⟨hfields, hkept⟩ := exec_storesIn (sp := .art) (n := 0) hc hexec (.inr (by decide)) (by decide)
      (fun x => by cases x <;> rfl)
    obtain ⟨n0, n4, n8, n12, n16, n20⟩ := hp.numbers
    obtain ⟨rrans, rflags, rmtch, rmodel⟩ := hp.regions
    exact ⟨t, hexec, hstatus, hp.valid, hp.header, hp.artLen, n0, n4, n8, n12, n16, n20, rrans, rflags, rmtch, rmodel, hfields,
      hkept⟩
  · refine exec_of_refused (by decide) hs ?_
    dsimp only [bodyOf, ctPack]
    rw [checked_refuses]
    rcases h with h | h | h <;> simp [h]

/-! ### `CT.UNPACK` -/

/-- The state an accepted `CT.UNPACK` leaves (44_container R214). -/
def unpacked (s : State) : State :=
  (unpackRegions (s.number32 .art 8) (s.number32 .art 12) (s.number32 .art 16) (s.setHdr (artHeader s))).setValid .hdr

theorem artHeader_magic_iff (s : State) : (artHeader s).magic = magicNumber ↔ s.number32 .art 0 = 0x4D49444F := by
  rw [← State.field32_toNat]
  exact (BitVec.toNat_inj (y := magicNumber)).symm

theorem artHeader_modelSize_iff (s : State) : (artHeader s).modelSize = 512#32 ↔ s.number32 .art 20 = 512 := by
  rw [← State.field32_toNat]
  exact (BitVec.toNat_inj (y := 512#32)).symm

/-- `CT.UNPACK` with its checks written over the numbers in `ART`, as `unpackCode` writes them. -/
theorem ctUnpack_eq {s : State} (hcap : s.len .art ≤ capacity s.cfg .art) :
    ctUnpack s.cfg s =
      if s.len .art < 24 then .raised .truncated s
      else if s.number32 .art 0 ≠ 0x4D49444F then .raised .badMagic (s.setHdr { s.hdr with magic := (artHeader s).magic })
      else if s.number32 .art 20 ≠ 512 ∨ s.number32 .art 8 < 4 then .raised .badHeader (s.setHdr (artHeader s))
      else if s.len .art < 24 + s.number32 .art 8 + s.number32 .art 12 + s.number32 .art 16 + s.number32 .art 20 then
        .raised .truncated (s.setHdr (artHeader s))
      else if capacity s.cfg .rans < s.number32 .art 8 ∨ capacity s.cfg .flags < s.number32 .art 12 ∨
        capacity s.cfg .mtch < s.number32 .art 16 then .raised .sizeOverflow (s.setHdr (artHeader s))
      else .ok () (unpacked s) := by
  rw [ctUnpack, checked_pass rfl (by simpa using hcap)]
  simp only [ne_eq, ← artHeader_magic_iff]
  simp only [unpacked, ← State.field32_toNat]
  rfl

/-- The ends of `CT.UNPACK`: a fault has the code `unpackCode` gives and leaves at most the header registers changed, those of a wrong
magic with the magic it found; an accepted one has found the magic and the model's size. -/
theorem ctUnpack_cases {s : State} (hcap : s.len .art ≤ capacity s.cfg .art) :
    (∃ k h, ctUnpack s.cfg s = .raised k (s.setHdr h) ∧ unpackCode s = k.code ∧
        (k.code = 2#4 → h.magic = (artHeader s).magic)) ∨
      (ctUnpack s.cfg s = .ok () (unpacked s) ∧ unpackCode s = 0#4 ∧ (artHeader s).magic = magicNumber ∧
        (artHeader s).modelSize = 512#32) := by
  rw [ctUnpack_eq hcap, unpackCode]
  split_ifs with hshort hmagic hheader htruncated hoverflow
  · exact .inl ⟨.truncated, s.hdr, rfl, rfl, fun h => absurd h (by decide)⟩
  · exact .inl ⟨.badMagic, _, rfl, rfl, fun _ => rfl⟩
  · exact .inl ⟨.badHeader, _, rfl, rfl, fun _ => rfl⟩
  · exact .inl ⟨.truncated, _, rfl, rfl, fun _ => rfl⟩
  · exact .inl ⟨.sizeOverflow, _, rfl, rfl, fun _ => rfl⟩
  · exact .inr ⟨rfl, rfl, (artHeader_magic_iff s).mpr (not_not.mp hmagic),
      (artHeader_modelSize_iff s).mpr (not_not.mp (not_or.mp hheader).1)⟩

/-- A fault of `CT.UNPACK` (60_exceptions R272). -/
theorem exec_ctUnpack_raised {s : State} (hs : s.err = 0#4) {k : ErrKind} {h : Header}
    (hb : ctUnpack s.cfg s = .raised k (s.setHdr h)) :
    exec .ctUnpack s = .next { s.setHdr h with status := mkStatus k.code true } :=
  (command_raised (body := bodyOf .ctUnpack) hs hb).trans (congrArg _ (State.takeFault_eq k ((State.setHdr_err h s).trans hs)))

/-- Contents that are a range of a buffer: the length and the bytes. -/
theorem State.region_of_contents {s t : State} {sp sp' : Space} {o n : Nat} (h : t.contents sp = s.bytes sp' o n) :
    t.len sp = n ∧ ∀ k, k < n → t.byte sp k = s.byte sp' (o + k) := by
  have hlen : t.len sp = n := by rw [← State.contents_length, h, State.bytes_length]
  refine ⟨hlen, fun k hk => ?_⟩
  have hk' : k < (t.contents sp).length := by rwa [State.contents_length, hlen]
  rw [← State.contents_getElem t sp k hk', ← State.bytes_getElem s sp' o n k (by rwa [State.bytes_length])]
  exact List.getElem_of_eq h hk'

theorem State.number32_lt (s : State) (sp : Space) (a : Nat) : s.number32 sp a < 2 ^ 32 :=
  State.field32_toNat s sp a ▸ (s.field32 sp a).isLt

/-- What a `CT.UNPACK` that ended `ok` leaves: the header of the artifact and its regions, ranges of `ART` (44_container R214). -/
structure Unpacked (s t : State) : Prop where
  hdr : t.hdr = artHeader s
  valid : t.valid = s.valid ||| 0x20#8
  rans : t.contents .rans = s.bytes .art 24 (s.number32 .art 8)
  flags : t.contents .flags = s.bytes .art (24 + s.number32 .art 8) (s.number32 .art 12)
  mtch : t.contents .mtch = s.bytes .art (24 + s.number32 .art 8 + s.number32 .art 12) (s.number32 .art 16)
  model : t.contents .model = s.bytes .art (24 + s.number32 .art 8 + s.number32 .art 12 + s.number32 .art 16) 512

theorem unpacked_unpacked (s : State) : Unpacked s (unpacked s) := by
  obtain ⟨hrans, hflags, hmtch, hmodel⟩ := unpackRegions_contents (s := s.setHdr (artHeader s)) (s.number32_lt .art 8)
    (s.number32_lt .art 12) (s.number32_lt .art 16)
  have hart := State.bytes_congr (State.setHdr_buf (artHeader s) s .art)
  have hbuf : ∀ u : State, ∀ sp, (u.setValid .hdr).contents sp = u.contents sp := fun u sp =>
    State.contents_congr (State.setValid_buf .hdr u sp)
  simp only [hart] at hrans hflags hmtch hmodel
  exact {
    hdr := by rw [unpacked, State.setValid_hdr, unpackRegions_hdr, State.setHdr_hdr]
    valid := by simp [unpacked, unpackRegions, State.setValid, ValidBit.index]
    rans := (hbuf _ _).trans hrans
    flags := (hbuf _ _).trans hflags
    mtch := (hbuf _ _).trans hmtch
    model := (hbuf _ _).trans hmodel }

theorem Unpacked.withStatus {s t : State} (h : Unpacked s t) (v : BitVec 8) : Unpacked s { t with status := v } := by
  have hcontents := fun sp => State.contents_congr (congrFun (withStatus_buf t v) sp)
  exact ⟨h.hdr, h.valid, (hcontents _).trans h.rans, (hcontents _).trans h.flags, (hcontents _).trans h.mtch,
    (hcontents _).trans h.model⟩

/-- Settles O36: `ctUnpack_cases` gives the ends in the order of the checks, `Unpacked` the header and the regions of an accepted
one. -/
theorem ctUnpackResult : Obligations.CtUnpackResult := by
  intro s hs hcap _
  rcases ctUnpack_cases hcap with ⟨k, h, hb, hk, hmagic⟩ | ⟨hb, hcode, hmagic, hsize⟩
  · rw [hk]
    exact ⟨_, exec_ctUnpack_raised hs hb, rfl, fun _ => ⟨rfl, fun _ _ => rfl, fun _ => rfl⟩,
      fun h2 => (congrArg BitVec.toNat (hmagic h2)).trans (State.field32_toNat s .art 0),
      fun h0 => absurd h0 k.code_ne_zero⟩
  · obtain ⟨t, hexec, hstatus, hu⟩ : ∃ t, exec .ctUnpack s = .next t ∧ t.status = mkStatus 0#4 true ∧ Unpacked s t :=
      ⟨_, exec_of_ok (by decide) hs hb, rfl, (unpacked_unpacked s).withStatus _⟩
    obtain ⟨lrans, brans⟩ := State.region_of_contents hu.rans
    obtain ⟨lflags, bflags⟩ := State.region_of_contents hu.flags
    obtain ⟨lmtch, bmtch⟩ := State.region_of_contents hu.mtch
    obtain ⟨lmodel, bmodel⟩ := State.region_of_contents hu.model
    rw [hcode]
    refine ⟨t, hexec, hstatus, fun h => absurd rfl h, fun h => absurd h (by decide), fun _ => ?_⟩
    rw [hu.hdr, lrans, lflags, lmtch]
    exact ⟨hu.valid, hmagic, State.field32_toNat s .art 4, State.field32_toNat s .art 8, State.field32_toNat s .art 12,
      State.field32_toNat s .art 16, hsize, rfl, rfl, rfl, lmodel, brans, bflags, bmtch, bmodel⟩

/-! ### `CT.UNPACK` after `CT.PACK` -/

/-- Settles O37: the packed state holds its artifact (`exec_ctPack_packed`), which `CT.UNPACK` gives back (`ctUnpack_restores`). -/
theorem unpackRestoresPack : Obligations.UnpackRestoresPack := by
  intro s t hs hc hrans h ht
  have hp := exec_ctPack_packed hs hc h ht
  have hcap : t.len .art ≤ capacity t.cfg .art := by
    rw [hp.artLen, hp.cfg, ← hp.modelLen, ← packBytes_length]
    exact packBytes_fits hp.modelLen hp.fits
  have hne : ∀ sp ∈ [Space.rans, .flags, .mtch, .model], sp ≠ .art := by decide
  have hfits : ∀ sp ∈ [Space.rans, .flags, .mtch, .model], t.len sp ≤ capacity t.cfg sp := fun sp hsp => by
    rw [hp.len (hne sp hsp), hp.cfg]
    exact hp.fits sp hsp
  obtain ⟨u, hu, hhdr, -, hcontents⟩ := ctUnpack_restores hp.artifact rfl (by rwa [hp.len (by decide)])
    ((hp.len (by decide)).trans hp.modelLen) hcap hfits
  refine ⟨_, exec_of_ok (i := .ctUnpack) (by decide) ht hu, (mkStatus_fields 0#4 true).1, hhdr.trans hp.artifact.hdr.symm,
    fun sp hsp => ?_⟩
  exact State.byte_of_contents ((hcontents sp hsp).trans (State.contents_congr (hp.buf sp (hne sp hsp))))

end Sys2Proof.Machine


/-! PROOFS. Two runs in lockstep: what a unit operation does is told by what the valid bits let it see of the state (spec
10_state R25, R32; 45_orchestration R247). -/

namespace Sys2Proof.Machine

/-! ### Operations that end alike -/

/-- Two operations end alike: both `ok` with one answer, both with one fault, or both refused, in states that `R` relates. -/
inductive Res.Rel {α : Type} (R : State → State → Prop) : Res α → Res α → Prop
  | ok (a : α) {s t : State} (h : R s t) : Rel R (.ok a s) (.ok a t)
  | raised (k : ErrKind) {s t : State} (h : R s t) : Rel R (.raised k s) (.raised k t)
  | refused : Rel R .refused .refused

section Rel
variable {α β : Type} {R R' : State → State → Prop} {c : Config} {s t : State}

/-- A first operation whose ends are related more closely. -/
theorem Res.Rel.bindFrom {r r' : Res α} {f g : α → State → Res β} (hr : Res.Rel R' r r') (himp : ∀ s t, R' s t → R s t)
    (hf : ∀ a s t, R' s t → Res.Rel R (f a s) (g a t)) : Res.Rel R (r.bind f) (r'.bind g) := by
  cases hr with
  | ok a h => exact hf a _ _ h
  | raised k h => exact .raised k (himp _ _ h)
  | refused => exact .refused

theorem Res.Rel.bind {r r' : Res α} {f g : α → State → Res β} (hr : Res.Rel R r r')
    (hf : ∀ a s t, R s t → Res.Rel R (f a s) (g a t)) : Res.Rel R (r.bind f) (r'.bind g) :=
  hr.bindFrom (fun _ _ h => h) hf

theorem Res.rel_ite {p q : Prop} [Decidable p] [Decidable q] {r r' u u' : Res α} (hpq : q ↔ p) (h : p → Res.Rel R r r')
    (h' : ¬ p → Res.Rel R u u') : Res.Rel R (if p then r else u) (if q then r' else u') := by
  by_cases hp : p
  · rw [if_pos hp, if_pos (hpq.mpr hp)]
    exact h hp
  · rw [if_neg hp, if_neg (mt hpq.mp hp)]
    exact h' hp

theorem checked_rel {pre pre' : Bool} {inputs : List Space} {go go' : Unit → Res α} (h : R s t) (hpre : pre' = pre)
    (hlen : ∀ sp, t.len sp = s.len sp)
    (hgo : pre = true → (∀ sp ∈ inputs, s.len sp ≤ capacity c sp) → Res.Rel R (go ()) (go' ())) :
    Res.Rel R (checked c pre inputs s go) (checked c pre' inputs t go') := by
  subst hpre
  rw [checked, checked]
  simp only [hlen]
  refine Res.rel_ite Iff.rfl (fun _ => .refused) fun hp => Res.rel_ite Iff.rfl (fun _ => .raised _ h) fun hf => ?_
  exact hgo (Bool.eq_true_of_not_eq_false hp) fun sp hsp => by simpa using mt (fun hl => List.any_eq_true.mpr ⟨sp, hsp, hl⟩) hf

end Rel

/-! ### States that look alike -/

/-- The bytes an operation may read: those below a length register, and those of `RANS` that an initialised decoder has yet to take
in (70_reset R316). -/
def State.Sees (s : State) (sp : Space) (a : Nat) : Prop :=
  a < s.len sp ∨ (sp = .rans ∧ s.isValid .rd = true ∧ a < s.rdPtr.toNat)

/-- Two states agree in everything that a unit operation reads: the unit registers, those of the model, the rANS decoder and the
header while their valid bit is 1, and the bytes seen. -/
structure Alike (s t : State) : Prop where
  valid : t.valid = s.valid
  bwCur : t.bwCur = s.bwCur
  bwCnt : t.bwCnt = s.bwCnt
  bwFlushed : t.bwFlushed = s.bwFlushed
  brPos : t.brPos = s.brPos
  reState : t.reState = s.reState
  lzP : t.lzP = s.lzP
  decMpos : t.decMpos = s.decMpos
  lenReg (sp : Space) : (t.buf sp).len = (s.buf sp).len
  byte {sp : Space} {a : Nat} (h : s.Sees sp a) : t.byte sp a = s.byte sp a
  model (h : s.isValid .ss = true) : t.freqs = s.freqs ∧ t.cum = s.cum
  decoder (h : s.isValid .rd = true) : t.rdState = s.rdState ∧ t.rdPtr = s.rdPtr
  hdr (h : s.isValid .hdr = true) : t.hdr = s.hdr

section Alike
variable {s t : State} (h : Alike s t)
include h

/-! #### What alike states read alike -/

theorem Alike.len (sp : Space) : t.len sp = s.len sp := congrArg BitVec.toNat (h.lenReg sp)

theorem Alike.isValid (u : ValidBit) : t.isValid u = s.isValid u := isValid_of_valid h.valid u

theorem Alike.bytes {sp : Space} {a n : Nat} (hn : a + n ≤ s.len sp) : t.bytes sp a n = s.bytes sp a n :=
  State.bytes_eq_of_byte fun k hk => h.byte (.inl (by omega))

theorem Alike.contents (sp : Space) : t.contents sp = s.contents sp := by
  rw [State.contents, State.contents, h.len, h.bytes (by omega)]

theorem Alike.field32 {sp : Space} {a : Nat} (ha : a + 4 ≤ s.len sp) : t.field32 sp a = s.field32 sp a := by
  have hb (k : Nat) (hk : k < 4) : t.byte sp (a + k) = s.byte sp (a + k) := h.byte (.inl (by omega))
  rw [State.field32, State.field32, hb 1 (by decide), hb 2 (by decide), hb 3 (by decide),
    show t.byte sp a = _ from hb 0 (by decide)]
  rfl

theorem Alike.freq (hss : s.isValid .ss = true) (sym : Byte) : t.freq sym = s.freq sym := by
  rw [State.freq, State.freq, (h.model hss).1]

theorem Alike.cumAt (hss : s.isValid .ss = true) : t.cumAt = s.cumAt := by
  funext i
  rw [State.cumAt, State.cumAt, (h.model hss).2]

/-- The model is looked at behind `VALID.SS` alone. -/
theorem Alike.modelFull (b : Bool) : (b && t.isValid .ss && t.modelFull) = (b && s.isValid .ss && s.modelFull) := by
  rw [h.isValid]
  cases hss : s.isValid .ss with
  | false => rw [Bool.and_false, Bool.false_and, Bool.false_and]
  | true => rw [State.modelFull, State.modelFull, h.cumAt hss]

theorem Alike.flagHere : t.flagHere = s.flagHere := by
  rw [State.flagHere, State.flagHere, h.brPos, h.len]
  split
  · rw [h.byte (.inl (by omega))]
  · rfl

theorem Alike.recordHere : t.recordHere = s.recordHere := by
  rw [State.recordHere, State.recordHere, h.decMpos, h.len]
  exact State.bytes_eq_of_byte fun k hk => h.byte (.inl (by omega))

/-! #### Updates that keep states alike -/

theorem Alike.setWriter (cur : Byte) (cnt : BitVec 3) : Alike (s.setWriter cur cnt) (t.setWriter cur cnt) :=
  { h with bwCur := rfl, bwCnt := rfl }

theorem Alike.setFlushed (b : Bool) : Alike (s.setFlushed b) (t.setFlushed b) := { h with bwFlushed := rfl }

theorem Alike.setBrPos (p : Word) : Alike (s.setBrPos p) (t.setBrPos p) := { h with brPos := rfl }

theorem Alike.setReState (x : Word) : Alike (s.setReState x) (t.setReState x) := { h with reState := rfl }

theorem Alike.setLzP (p : Word) : Alike (s.setLzP p) (t.setLzP p) := { h with lzP := rfl }

theorem Alike.setDecMpos (p : Word) : Alike (s.setDecMpos p) (t.setDecMpos p) := { h with decMpos := rfl }

theorem Alike.setRaw (r : Vector Word 256) : Alike (s.setRaw r) (t.setRaw r) := { h with }

theorem Alike.setHdr {v w : Header} (hvw : s.isValid .hdr = true → w = v) : Alike (s.setHdr v) (t.setHdr w) :=
  { h with hdr := hvw }

theorem Alike.setDecoder {x p : Word} (hb : ∀ a, a < p.toNat → t.byte .rans a = s.byte .rans a) :
    Alike (s.setDecoder x p) (t.setDecoder x p) :=
  { h with
    byte := fun {sp a} ha => by
      rw [State.setDecoder_byte, State.setDecoder_byte]
      rcases ha with ha | ⟨rfl, -, ha⟩
      · exact h.byte (.inl ha)
      · exact hb a ha
    decoder := fun _ => ⟨rfl, rfl⟩ }

/-- A valid bit whose registers are the same in both states. -/
theorem Alike.setValid {u : ValidBit} (hss : u = .ss → t.freqs = s.freqs ∧ t.cum = s.cum)
    (hrd : u = .rd → (t.rdState = s.rdState ∧ t.rdPtr = s.rdPtr) ∧ ∀ a, a < s.rdPtr.toNat → t.byte .rans a = s.byte .rans a)
    (hhdr : u = .hdr → t.hdr = s.hdr) : Alike (s.setValid u) (t.setValid u) := by
  have hv : ∀ v, (s.setValid u).isValid v = true → u = v ∨ s.isValid v = true := fun v hv => by
    rw [State.setValid_isValid, Bool.or_eq_true] at hv
    exact hv.imp_left of_decide_eq_true
  exact { h with
    valid := congrArg (· ||| _) h.valid
    byte := fun {sp a} ha => by
      rw [State.setValid_byte, State.setValid_byte]
      rcases ha with ha | ⟨rfl, hr, ha⟩
      · exact h.byte (.inl ha)
      · exact (hv .rd hr).elim (fun e => (hrd e).2 a ha) fun hr => h.byte (.inr ⟨rfl, hr, ha⟩)
    model := fun hs => (hv .ss hs).elim hss h.model
    decoder := fun hr => (hv .rd hr).elim (fun e => (hrd e).1) h.decoder
    hdr := fun hh => (hv .hdr hh).elim hhdr h.hdr }

/-- A valid bit that guards no register of its own. -/
theorem Alike.setPlainValid {u : ValidBit} (hu : u ≠ .ss ∧ u ≠ .rd ∧ u ≠ .hdr) : Alike (s.setValid u) (t.setValid u) :=
  h.setValid (fun e => absurd e hu.1) (fun e => absurd e hu.2.1) fun e => absurd e hu.2.2

theorem Alike.closeEncoder : Alike (s.clearValid .re) (t.clearValid .re) := by
  have hv : ∀ v, (s.clearValid .re).isValid v = true → s.isValid v = true := fun v hv => by
    rw [State.clearValid_isValid, Bool.and_eq_true] at hv
    exact hv.2
  exact { h with
    valid := congrArg (· &&& _) h.valid
    byte := fun {sp a} ha => by
      rw [State.clearValid_byte, State.clearValid_byte]
      exact h.byte (ha.imp_right fun ⟨e, hr, ha⟩ => ⟨e, hv .rd hr, ha⟩)
    model := fun hs => h.model (hv .ss hs)
    decoder := fun hr => h.decoder (hv .rd hr)
    hdr := fun hh => h.hdr (hv .hdr hh) }

theorem Alike.setTables (f : Vector Half 256) (c : Vector Half 257) : Alike (s.setTables f c) (t.setTables f c) :=
  { h with model := fun _ => ⟨rfl, rfl⟩ }

theorem Alike.putModel (fs : List Nat) : Alike (s.putModel fs) (t.putModel fs) :=
  (h.setTables _ _).setValid (u := .ss) (fun _ => ⟨rfl, rfl⟩) nofun nofun

/-- A buffer replaced in both states by buffers in which the same bytes are seen. -/
theorem Alike.setBuf {sp : Space} {b b' : Buf} (hlen : b'.len = b.len)
    (hbyte : ∀ a, a < b.len.toNat ∨ s.Sees sp a → (t.setBuf sp b').byte sp a = (s.setBuf sp b).byte sp a) :
    Alike (s.setBuf sp b) (t.setBuf sp b') where
  valid := by simpa using h.valid
  bwCur := by simpa using h.bwCur
  bwCnt := by simpa using h.bwCnt
  bwFlushed := by simpa using h.bwFlushed
  brPos := by simpa using h.brPos
  reState := by simpa using h.reState
  lzP := by simpa using h.lzP
  decMpos := by simpa using h.decMpos
  lenReg x := by
    rw [State.setBuf_buf, State.setBuf_buf]
    split
    · exact hlen
    · exact h.lenReg x
  byte {x a} ha := by
    rw [State.Sees, State.setBuf_isValid, State.setBuf_rdPtr, State.len] at ha
    by_cases hx : x = sp
    · subst hx
      rw [State.setBuf_buf_same] at ha
      exact hbyte a (ha.imp_right fun hr => .inr hr)
    · rw [State.setBuf_buf_ne hx] at ha
      rw [State.byte_congr (State.setBuf_buf_ne hx b' t), State.byte_congr (State.setBuf_buf_ne hx b s)]
      exact h.byte ha
  model hs := by simpa using h.model (by simpa using hs)
  decoder hr := by simpa using h.decoder (by simpa using hr)
  hdr hh := by simpa using h.hdr (by simpa using hh)

/-- A length register cut back. -/
theorem Alike.setLen {sp : Space} {n : Word} (hn : n.toNat ≤ s.len sp) : Alike (s.setLen sp n) (t.setLen sp n) := by
  refine h.setBuf rfl fun a ha => ?_
  change (t.setLen sp n).byte sp a = (s.setLen sp n).byte sp a
  rw [State.setLen_byte, State.setLen_byte]
  exact h.byte (ha.elim (fun ha => .inl (lt_of_lt_of_le ha hn)) id)

/-- The same bytes written at the same place, and the length register moved over seen bytes alone. -/
theorem Alike.writeBytes_setLen {sp : Space} {a : Nat} {bs : List Byte} {l : Word} (hl : l.toNat ≤ a + bs.length)
    (ha : a ≤ s.len sp) :
    Alike ((s.writeBytes sp a bs).setLen sp l) ((t.writeBytes sp a bs).setLen sp l) := by
  have hset (u : State) : (u.writeBytes sp a bs).setLen sp l =
      u.setBuf sp { (u.writeBytes sp a bs).buf sp with len := l } := by
    rw [State.setLen, State.writeBytes, State.setBuf_setBuf]
  rw [hset, hset]
  refine h.setBuf rfl fun x hx => ?_
  rw [← hset, ← hset, State.setLen_byte, State.setLen_byte, State.writeBytes_byte_same, State.writeBytes_byte_same]
  split
  next => rfl
  next hout => exact h.byte (hx.elim (fun hx => .inl (by change x < l.toNat at hx; omega)) id)

theorem Alike.appended (sp : Space) (b : Byte) : Alike (s.appended sp b) (t.appended sp b) := by
  have hl : ((s.buf sp).len + 1#32).toNat ≤ s.len sp + [b].length := (BitVec.toNat_add _ _).trans_le (Nat.mod_le _ _)
  rw [State.appended, State.appended, h.len, h.lenReg]
  exact h.writeBytes_setLen hl le_rfl

theorem Alike.load (sp : Space) (bs : List Byte) : Alike (s.load sp bs) (t.load sp bs) :=
  h.writeBytes_setLen ((BitVec.toNat_ofNat _ _).trans_le ((Nat.mod_le _ _).trans (Nat.zero_add _).ge)) (Nat.zero_le _)

end Alike

end Sys2Proof.Machine


/-! PROOFS. The decode loop in lockstep (spec 45_orchestration R240, R243, R250, R251). -/

namespace Sys2Proof.Machine

/-- The valid bits and the full model that `DEC.STEP` and `DEC.RUN` need (45_orchestration R240, R243). -/
theorem decReady_iff (s : State) : decReady s = true ↔
    s.isValid .dec = true ∧ s.isValid .hdr = true ∧ s.isValid .br = true ∧ s.isValid .rd = true ∧ s.isValid .ss = true ∧
      s.cumAt 256 = 4096 := by
  simp [decReady, State.modelFull, and_assoc]

theorem Alike.decReady {s t : State} (h : Alike s t) : decReady t = decReady s := by
  rw [Machine.decReady, h.modelFull, h.isValid, h.isValid, h.isValid, h.isValid, Machine.decReady]

/-! ### Relations that the loop keeps -/

/-- A relation between alike states that the decode loop's updates keep. -/
structure Lockstep (R : State → State → Prop) : Prop where
  alike {s t : State} (h : R s t) : Alike s t
  setBrPos {s t : State} (p : Word) (h : R s t) : R (s.setBrPos p) (t.setBrPos p)
  setDecMpos {s t : State} (p : Word) (h : R s t) : R (s.setDecMpos p) (t.setDecMpos p)
  setDecoder {s t : State} {x p : Word} (h : R s t) (hb : ∀ a, a < p.toNat → t.byte .rans a = s.byte .rans a) :
    R (s.setDecoder x p) (t.setDecoder x p)
  appended {s t : State} (sp : Space) (b : Byte) (h : R s t) : R (s.appended sp b) (t.appended sp b)

theorem alike_lockstep : Lockstep Alike where
  alike h := h
  setBrPos p h := h.setBrPos p
  setDecMpos p h := h.setDecMpos p
  setDecoder h hb := h.setDecoder hb
  appended sp b h := h.appended sp b

/-- Alike states with the same header: what `DEC.RUN` looks at again when its loop has ended. -/
def AlikeWithHeader (s t : State) : Prop := Alike s t ∧ t.hdr = s.hdr

theorem State.appended_hdr (sp : Space) (b : Byte) (s : State) : (s.appended sp b).hdr = s.hdr := by simp [State.appended]

theorem alikeWithHeader_lockstep : Lockstep AlikeWithHeader where
  alike h := h.1
  setBrPos p h := ⟨h.1.setBrPos p, h.2⟩
  setDecMpos p h := ⟨h.1.setDecMpos p, h.2⟩
  setDecoder h hb := ⟨h.1.setDecoder hb, h.2⟩
  appended sp b h := ⟨h.1.appended sp b, by rw [State.appended_hdr, State.appended_hdr, h.2]⟩

/-- Two states that differ by `STATUS` alone. -/
def DifferByStatus (s t : State) : Prop := ∃ v, t = { s with status := v }

theorem differByStatus_lockstep : Lockstep DifferByStatus where
  alike := by
    rintro s - ⟨v, rfl⟩
    exact ⟨rfl, rfl, rfl, rfl, rfl, rfl, rfl, rfl, fun sp => by rw [withStatus_buf],
      fun _ => State.byte_congr (congrFun (withStatus_buf s v) _) _,
      fun _ => ⟨rfl, rfl⟩, fun _ => ⟨rfl, rfl⟩, fun _ => rfl⟩
  setBrPos := by
    rintro s - p ⟨v, rfl⟩
    exact ⟨v, rfl⟩
  setDecMpos := by
    rintro s - p ⟨v, rfl⟩
    exact ⟨v, rfl⟩
  setDecoder := by
    rintro s - x p ⟨v, rfl⟩ -
    exact ⟨v, rfl⟩
  appended := by
    rintro s - sp b ⟨v, rfl⟩
    exact ⟨v, by cases sp <;> rfl⟩

/-! ### The operations of the loop -/

section Lockstep
variable {R : State → State → Prop} (hR : Lockstep R) {c : Config} {s t : State} (h : R s t)
include hR h

theorem Lockstep.append (sp : Space) (b : Byte) : Res.Rel R (append c sp b s) (append c sp b t) :=
  Res.rel_ite (by rw [(hR.alike h).len]) (fun _ => .ok _ (hR.appended sp b h)) fun _ => .refused

theorem Lockstep.brRbit : Res.Rel R (brRbit c s) (brRbit c t) := by
  have ha := hR.alike h
  refine checked_rel h (ha.isValid .br) ha.len fun _ _ => ?_
  rw [ha.brPos, ha.len, ha.flagHere]
  exact Res.rel_ite Iff.rfl (fun _ => .ok _ (hR.setBrPos _ h)) fun _ => .ok _ h

theorem Lockstep.rdGet : Res.Rel R (rdGet c s) (rdGet c t) := by
  have ha := hR.alike h
  refine checked_rel h ?_ ha.len fun hp _ => ?_
  · rw [ha.modelFull, ha.isValid]
  obtain ⟨hp, -⟩ := Bool.and_eq_true_iff.mp hp
  obtain ⟨hrd, hss⟩ := Bool.and_eq_true_iff.mp hp
  obtain ⟨hx, hptr⟩ := ha.decoder hrd
  have hbytes : ∀ a, a < s.rdPtr.toNat → t.byte .rans a = s.byte .rans a := fun a hlt => ha.byte (.inr ⟨rfl, hrd, hlt⟩)
  have hrefill (x : Word) : refill c t s.rdPtr.toNat x = refill c s s.rdPtr.toNat x := refill_congr c _ x hbytes
  simp only [hx, hptr, State.lookup, ha.cumAt hss, ha.freq hss, hrefill]
  refine .ok _ (hR.setDecoder h fun a hlt => hbytes a (hlt.trans_le ?_))
  rw [BitVec.toNat_ofNat]
  exact (Nat.mod_le _ _).trans (refill_stack c s _ _).2.1

theorem Lockstep.litToken : Res.Rel R (litToken c s) (litToken c t) :=
  (hR.rdGet h).bind fun sym _ _ h => hR.append h .out sym

/-- A copy that starts below `OUT_LEN` stays below it, since `OUT_LEN` moves on with it. -/
theorem Lockstep.copyOut (hc : c.Bounded) {n src : Nat} (hsrc : src < s.len .out) :
    Res.Rel R (copyOut c n src s) (copyOut c n src t) := by
  induction n generalizing s t src with
  | zero => exact .ok _ h
  | succ n ih =>
    have ha := hR.alike h
    rw [Machine.copyOut, Machine.copyOut, ha.byte (.inl hsrc)]
    rcases append_cases c .out (s.byte .out src) s with ⟨hl, hs⟩ | ⟨hl, hs⟩
    · rw [hs, append_ok _ (by rwa [ha.len])]
      refine ih (hR.appended .out _ h) ?_
      rw [(appended_spec hc _ hl).1]
      omega
    · rw [hs, append_full _ (by rwa [ha.len])]
      exact .refused

theorem Lockstep.matchToken (hc : c.Bounded) (dist : Half) (len : Byte) :
    Res.Rel R (matchToken c dist len s) (matchToken c dist len t) := by
  have ha := hR.alike h
  have hu := hR.setDecMpos (s.decMpos + 3#32) h
  rw [Machine.matchToken, Machine.matchToken, ha.decMpos]
  simp only [State.setDecMpos_len, ha.len]
  refine Res.rel_ite Iff.rfl (fun _ => .raised _ hu) fun hdist => hR.copyOut hu hc ?_
  obtain ⟨h0, hback⟩ := not_or.mp hdist
  have h1 : 1 ≤ dist.toNat := Nat.pos_of_ne_zero fun h => h0 (BitVec.eq_of_toNat_eq h)
  rw [State.setDecMpos_len]
  omega

theorem Lockstep.decStep (hc : c.Bounded) : Res.Rel R (decStep c s) (decStep c t) := by
  have ha := hR.alike h
  refine checked_rel h ?_ ha.len fun _ _ => (hR.brRbit h).bind fun b u v huv => ?_
  · rw [ha.decReady]
    cases hr : decReady s with
    | false => rfl
    | true => rw [decMore, decMore, ha.len, ha.hdr ((decReady_iff s).mp hr).2.1]
  · rw [(hR.alike huv).recordHere]
    split
    · exact hR.litToken huv
    · exact hR.matchToken huv hc _ _
    · exact .raised _ huv

theorem Lockstep.decLoop (hc : c.Bounded) (hhdr : ∀ {s t}, R s t → t.hdr = s.hdr) (fuel : Nat) :
    Res.Rel R (decLoop c fuel s) (decLoop c fuel t) := by
  induction fuel generalizing s t with
  | zero => exact .ok _ h
  | succ fuel ih =>
    have hmore : decMore t = decMore s := by rw [decMore, decMore, (hR.alike h).len, hhdr h]
    exact Res.rel_ite (by rw [hmore]) (fun _ => (hR.decStep h hc).bind fun _ _ _ h => ih h) fun _ => .ok _ h

end Lockstep

/-- The end of `DEC.RUN` looks at the output's length and the header. -/
theorem decEnd_rel {R : State → State → Prop} {c : Config} {s t : State} (h : R s t) (ha : Alike s t) (hhdr : t.hdr = s.hdr)
    (hset : s.hdr.origSize.toNat < s.len .out → R (s.setLen .out s.hdr.origSize) (t.setLen .out s.hdr.origSize)) :
    R (decEnd c s) (decEnd c t) := by
  rw [decEnd, decEnd, ha.len, hhdr]
  split
  next hcut => exact hset hcut.2
  next => exact h

theorem DifferByStatus.hdr {s t : State} (h : DifferByStatus s t) : t.hdr = s.hdr := by
  obtain ⟨v, rfl⟩ := h
  rfl

theorem DifferByStatus.decEnd {c : Config} {s t : State} (h : DifferByStatus s t) : DifferByStatus (decEnd c s) (decEnd c t) := by
  refine decEnd_rel h (differByStatus_lockstep.alike h) h.hdr fun _ => ?_
  obtain ⟨v, rfl⟩ := h
  exact ⟨v, rfl⟩

end Sys2Proof.Machine


/-! PROOFS. The decode loop (spec 45_orchestration R239 to R243; 60_exceptions R263, R264): how one `DEC.STEP` ends, how many more a
`DEC.RUN` makes, and that it ends. -/

namespace Sys2Proof.Machine

/-- A command that raises ends in the state its pseudocode had reached, with the code of the fault (60_exceptions R272). -/
theorem exec_of_fault {i : Instr} {s t : State} {k : ErrKind} (hi : i ≠ .reset) (hs : s.err = 0#4)
    (hb : bodyOf i s = .raised k t) : exec i s = .next { t with status := mkStatus k.code true } := by
  obtain ⟨-, hst, -⟩ := Res.keeps_raised_iff.mp (hb ▸ bodyOf_keeps i s)
  rw [exec_eq_command hi, command_raised hs hb, State.takeFault_eq k ((State.err_eq_of_status hst).trans hs)]

/-! ### `DEC.INIT` -/

theorem decInit_ok {c : Config} {s : State} (hh : s.isValid .hdr = true) (hsize : s.hdr.origSize.toNat ≤ c.nMax) :
    decInit c s = .ok () (((s.setDecMpos 0#32).setLen .out 0#32).setValid .dec) :=
  (checked_pass hh (by simp)).trans (if_neg (by omega))

theorem decInit_overflow {c : Config} {s : State} (hh : s.isValid .hdr = true) (hsize : c.nMax < s.hdr.origSize.toNat) :
    decInit c s = .raised .sizeOverflow s :=
  (checked_pass hh (by simp)).trans (if_pos hsize)

/-- Settles O38: the three ends of the body. -/
theorem decInitResult : Obligations.DecInitResult := by
  intro s hs
  refine ⟨fun hh hsize => exec_of_ok (i := .decInit) (by decide) hs (decInit_ok hh hsize), fun hh hsize => ?_, fun hh => ?_⟩
  · exact exec_of_overflow (by decide) hs (decInit_overflow hh hsize)
  · exact exec_of_refused (by decide) hs (by rw [bodyOf]; exact checked_refuses hh)

/-! ### How one `DEC.STEP` ends -/

/-- A unit or the model is not ready (45_orchestration R240, R243). -/
theorem decReady_eq_false {s : State} (h : s.isValid .dec = false ∨ s.isValid .hdr = false ∨ s.isValid .br = false ∨
    s.isValid .rd = false ∨ s.isValid .ss = false ∨ s.cumAt 256 ≠ 4096) : decReady s = false := by
  rw [← Bool.not_eq_true, decReady_iff]
  rintro ⟨hdec, hhdr, hbr, hrd, hss, hfull⟩
  simp [hdec, hhdr, hbr, hrd, hss, hfull] at h

section DecStep
variable {c : Config} (hc : c.Bounded) {s : State} (hready : decReady s = true) (hmore : decMore s = true)
  (hfits : ∀ sp ∈ [Space.flags, .mtch, .rans, .out], s.len sp ≤ capacity c sp)
include hc hready hmore hfits

/-- At a flag bit 0, or past the end of `FLAGS`, a byte is appended if there is room (45_orchestration R250). -/
theorem decStep_literal (hbit : s.flagsBit s.brPos.toNat = false) (hroom : s.len .out < capacity c .out) :
    ∃ q x p sym, q.toNat = (if s.brPos.toNat < 8 * s.len .flags then s.brPos.toNat + 1 else s.brPos.toNat) ∧
      decStep c s = .ok () (((s.setBrPos q).setDecoder x p).appended .out sym) := by
  obtain ⟨q, hq, hstep⟩ := decStep_ready hc hready hmore hfits
  obtain ⟨-, -, -, hrd, hss, hfull⟩ := (decReady_iff s).mp hready
  obtain ⟨sym, x, p, -, hget⟩ := rdGet_ok hrd hss (by simp [State.modelFull, hfull]) (hfits .rans (by simp))
  rw [hbit] at hstep
  refine ⟨q, x, p, sym, hq, hstep.trans ?_⟩
  change litToken c (s.setBrPos q) = _
  rw [litToken, hget, Res.bind_ok]
  exact append_ok sym hroom

section Flagged
variable (hbit : s.flagsBit s.brPos.toNat = true)
include hbit

omit hc hready hmore hfits in
/-- A flag bit 1 stands inside `FLAGS`, so `BR.pos` moves on. -/
theorem brPos_past_flag {q : Word} (hq : q.toNat = if s.brPos.toNat < 8 * s.len .flags then s.brPos.toNat + 1 else s.brPos.toNat) :
    q = s.brPos + 1#32 := by
  rw [if_pos (of_decide_eq_true (Bool.and_eq_true_iff.mp hbit).1)] at hq
  exact BitVec.eq_of_toNat_eq (by rw [advance_toNat (hq ▸ q.isLt), hq])

/-- Fewer than three bytes left (60_exceptions R263): the flag bit is consumed. -/
theorem decStep_underflow (hshort : s.len .mtch < s.decMpos.toNat + 3) :
    decStep c s = .raised .matchUnderflow (s.setBrPos (s.brPos + 1#32)) := by
  obtain ⟨q, hq, hstep⟩ := decStep_ready hc hready hmore hfits
  rw [hbit, State.recordHere_short hshort] at hstep
  rw [← brPos_past_flag hbit hq]
  exact hstep

/-- A whole record is run as a `MATCH` (45_orchestration R251). -/
theorem decStep_record (hrecord : s.decMpos.toNat + 3 ≤ s.len .mtch) :
    decStep c s = matchToken c (le16 (s.byte .mtch s.decMpos.toNat) (s.byte .mtch (s.decMpos.toNat + 1)))
      (s.byte .mtch (s.decMpos.toNat + 2)) (s.setBrPos (s.brPos + 1#32)) := by
  obtain ⟨q, hq, hstep⟩ := decStep_ready hc hready hmore hfits
  rw [hbit, State.decode_match hrecord] at hstep
  rw [← brPos_past_flag hbit hq]
  exact hstep

end Flagged

end DecStep

theorem matchToken_invalid {c : Config} {dist : Half} {len : Byte} {s : State} (h : dist.toNat = 0 ∨ s.len .out < dist.toNat) :
    matchToken c dist len s = .raised .invalidDistance (s.setDecMpos (s.decMpos + 3#32)) :=
  if_pos (h.imp_left fun h => BitVec.eq_of_toNat_eq h)

/-- Settles O42: a precondition that fails refuses the step, and with it the tokens that run it; `decStep_underflow` and
`matchToken_invalid` are the two faults. -/
theorem matchFaults : Obligations.MatchFaults := by
  intro s hs
  refine ⟨fun hbad => ?_, fun hc hdec hhdr hbr hrd hss hfull hmore hflags hmtch hrans hout hbit =>
    ⟨fun hshort => ?_, fun hrecord hdist => ?_⟩⟩
  · have hpre : (decReady s && decMore s) = false := by
      rw [Bool.and_eq_false_iff]
      refine Or.imp decReady_eq_false (fun h => decide_eq_false (not_lt.mpr h)) ?_
      simpa only [or_assoc] using hbad
    have hstep : decStep s.cfg s = .refused := checked_refuses hpre
    refine ⟨exec_of_refused (by decide) hs hstep, exec_of_refused (by decide) hs ?_,
      fun dist len => exec_of_refused (by simp) hs ?_⟩
    · simp only [bodyOf, hstep, ite_self]
    · simp only [bodyOf, hstep, ite_self]
  all_goals
    have hready : decReady s = true := (decReady_iff s).mpr ⟨hdec, hhdr, hbr, hrd, hss, hfull⟩
    have hfits : ∀ sp ∈ [Space.flags, .mtch, .rans, .out], s.len sp ≤ capacity s.cfg sp := by
      simp [hflags, hmtch, hrans, hout]
  · exact exec_of_fault (i := .decStep) (k := .matchUnderflow) (by decide) hs
      (decStep_underflow hc hready (decide_eq_true hmore) hfits hbit hshort)
  · refine exec_of_fault (i := .decStep) (k := .invalidDistance)
      (t := (s.setBrPos (s.brPos + 1#32)).setDecMpos (s.decMpos + 3#32)) (by decide) hs ?_
    refine (decStep_record hc hready (decide_eq_true hmore) hfits hbit hrecord).trans (matchToken_invalid ?_)
    rwa [le16_toNat, State.setBrPos_len]

/-! ### The rounds of the loop -/

/-- A step writes nothing but what `State.withoutDecoder` leaves out. -/
theorem withoutDecoder_keptBy (c : Config) (s : State) :
    KeptBy c (· ∈ writesOf .decStep) fun t => t.withoutDecoder = s.withoutDecoder where
  appended {sp _ t} hW _ ht := by
    obtain rfl : sp = .out := by simpa [writesOf] using hW
    exact (updates_withoutDecoder t 0#32 0#32 0#32 0#32 _).2.2.2.trans ht
  bit hW := absurd hW (by decide)
  emptied hW := absurd hW (by decide)
  setFlushed hW := absurd hW (by decide)
  setBrPos _ ht := ht
  setDecoder _ _ ht := ht
  setLzP hW := absurd hW (by decide)
  setDecMpos _ ht := ht
  setHdr hW := absurd hW (by decide)
  setRaw hW := absurd hW (by decide)
  setResult hW := absurd hW (by decide)
  setValid hW := absurd hW (by decide)
  closeEncoder hW := absurd hW (by decide)
  putModel hW := absurd hW (by decide)
  putSymbol hW := absurd hW (by decide)

theorem decStep_withoutDecoder (c : Config) (s : State) :
    (decStep c s).Keeps fun t => t.withoutDecoder = s.withoutDecoder :=
  (withoutDecoder_keptBy c s).decStep_keeps (by decide) (by decide) (fun _ _ => by decide) (fun _ _ _ _ => by decide) rfl

/-- A bound on the steps that a `DEC.RUN` still makes (45_orchestration R243): the bytes missing and the records left. -/
def State.roundsLeft (s : State) : Nat := (s.hdr.origSize.toNat - s.len .out) + (s.len .mtch - s.decMpos.toNat) / 3

theorem roundsLeft_pos {s : State} (h : decMore s = true) : 1 ≤ s.roundsLeft := by
  have := of_decide_eq_true h
  rw [State.roundsLeft]
  omega

/-- How the decode loop can fault where the original size is no more than `N_MAX`: by an input buffer that overflows only if one did
from the start. -/
def LoopFault (c : Config) (s : State) (k : ErrKind) : Prop :=
  k = .matchUnderflow ∨ k = .invalidDistance ∨ k = .sizeOverflow ∧
    ∃ sp ∈ [Space.flags, .mtch, .rans], capacity c sp < s.len sp

theorem LoopFault.congr {c : Config} {s t : State} {k : ErrKind} (h : LoopFault c t k)
    (hst : t.withoutDecoder = s.withoutDecoder) :
    LoopFault c s k :=
  h.imp_right fun h => h.imp_right fun ⟨hk, sp, hsp, hl⟩ =>
    ⟨hk, sp, hsp, by rwa [← State.len_congr (buf_of_withoutDecoder hst (by rintro rfl; simp at hsp))]⟩

section Loop
variable {c : Config} (hc : c.Bounded) {s : State} (hsize : s.hdr.origSize.toNat ≤ c.nMax) (hready : decReady s = true)
include hc hsize hready

/-- A step that is due is not refused: it faults, or it ends `ok` with fewer steps left. -/
theorem decStep_ends (hmore : decMore s = true) :
    (∃ t, decStep c s = .ok () t ∧ t.roundsLeft < s.roundsLeft) ∨ ∃ k t, decStep c s = .raised k t ∧ LoopFault c s k := by
  have hlt : s.len .out < s.hdr.origSize.toNat := of_decide_eq_true hmore
  have hroom : s.len .out + 255 ≤ capacity c .out := by simp only [capacity]; omega
  by_cases hfits : ∀ sp ∈ [Space.flags, .mtch, .rans, .out], s.len sp ≤ capacity c sp
  swap
  · simp only [not_forall, not_le] at hfits
    obtain ⟨sp, hsp, hl⟩ := hfits
    refine .inr ⟨_, s, checked_overflows (by rw [hready, hmore]; rfl) ⟨sp, hsp, hl⟩, .inr (.inr ⟨rfl, sp, ?_, hl⟩)⟩
    have hout : sp ≠ .out := by rintro rfl; omega
    simpa [hout] using hsp
  by_cases hbit : s.flagsBit s.brPos.toNat = true
  swap
  · obtain ⟨q, x, p, sym, -, hstep⟩ := decStep_literal hc hready hmore hfits (Bool.eq_false_of_not_eq_true hbit) (by omega)
    refine .inl ⟨_, hstep, ?_⟩
    have hlen : (((s.setBrPos q).setDecoder x p).appended .out sym).len .out = s.len .out + 1 :=
      (appended_spec hc sym (by simpa using (by omega : s.len .out < capacity c .out))).1
    change s.hdr.origSize.toNat - _ + (s.len .mtch - s.decMpos.toNat) / 3 < _
    rw [hlen, State.roundsLeft]
    omega
  by_cases hrecord : s.decMpos.toNat + 3 ≤ s.len .mtch
  swap
  · exact .inr ⟨_, _, decStep_underflow hc hready hmore hfits hbit (by omega), .inl rfl⟩
  have hstep := decStep_record hc hready hmore hfits hbit hrecord
  generalize le16 (s.byte .mtch s.decMpos.toNat) (s.byte .mtch (s.decMpos.toNat + 1)) = dist at hstep
  generalize s.byte .mtch (s.decMpos.toNat + 2) = len at hstep
  by_cases hdist : dist.toNat = 0 ∨ s.len .out < dist.toNat
  · exact .inr ⟨_, _, hstep.trans (matchToken_invalid (by simpa using hdist)), .inr (.inl rfl)⟩
  · have hwidth := len.isLt
    obtain ⟨t, ht, -, hmpos, hlen, -⟩ := matchToken_ok hc (s := s.setBrPos (s.brPos + 1#32)) (dist := dist) (len := len)
      (by omega) (by rw [State.setBrPos_len]; omega) (by rw [State.setBrPos_len]; omega)
    have hframe := decStep_withoutDecoder c s
    rw [hstep, ht] at hframe
    replace hframe := Res.keeps_ok_iff.mp hframe
    have hmpos' : t.decMpos.toNat = s.decMpos.toNat + 3 := by
      have := (s.buf .mtch).len.isLt
      change s.len .mtch < _ at this
      rw [hmpos, State.setBrPos_decMpos, advance_toNat (by omega)]
    rw [State.setBrPos_len] at hlen
    refine .inl ⟨t, hstep.trans ht, ?_⟩
    rw [State.roundsLeft, State.roundsLeft, hmpos', hlen, hdr_of_withoutDecoder hframe,
      State.len_congr (buf_of_withoutDecoder hframe (sp := .mtch) (by decide))]
    omega

/-- With as many rounds as steps are left, the loop runs until the output has reached the original size, or faults. -/
theorem decLoop_ends {fuel : Nat} (hfuel : s.roundsLeft ≤ fuel) :
    (∃ t, decLoop c fuel s = .ok () t ∧ t.withoutDecoder = s.withoutDecoder ∧ decMore t = false) ∨
      ∃ k t, decLoop c fuel s = .raised k t ∧ t.withoutDecoder = s.withoutDecoder ∧ LoopFault c s k := by
  induction fuel generalizing s with
  | zero =>
    refine .inl ⟨s, rfl, rfl, Bool.eq_false_of_not_eq_true fun hmore => ?_⟩
    have := roundsLeft_pos hmore
    omega
  | succ fuel ih =>
    by_cases hmore : decMore s = true
    swap
    · have hstop := Bool.eq_false_of_not_eq_true hmore
      exact .inl ⟨s, decLoop_stop hstop, rfl, hstop⟩
    have hframe := decStep_withoutDecoder c s
    rw [decLoop_step hmore]
    rcases decStep_ends hc hsize hready hmore with ⟨t, hstep, hleft⟩ | ⟨k, t, hstep, hk⟩ <;> rw [hstep] at hframe ⊢
    · have ht := Res.keeps_ok_iff.mp hframe
      rw [Res.bind_ok]
      rcases ih (by rwa [hdr_of_withoutDecoder ht]) (by rwa [decReady_of_withoutDecoder ht]) (by omega) with
        ⟨u, hu, hut, hstop⟩ | ⟨k, u, hu, hut, hk⟩
      · exact .inl ⟨u, hu, hut.trans ht, hstop⟩
      · exact .inr ⟨k, u, hu, hut.trans ht, hk.congr ht⟩
    · exact .inr ⟨k, t, rfl, (Res.keeps_raised_iff.mp hframe).2, hk⟩

/-- One round more than steps are left changes nothing. -/
theorem decLoop_succ {fuel : Nat} (hfuel : s.roundsLeft ≤ fuel) : decLoop c (fuel + 1) s = decLoop c fuel s := by
  induction fuel generalizing s with
  | zero =>
    have hstop : decMore s = false := Bool.eq_false_of_not_eq_true fun hmore => by
      have := roundsLeft_pos hmore
      omega
    rw [decLoop_stop hstop, decLoop_stop hstop]
  | succ fuel ih =>
    by_cases hmore : decMore s = true
    · rw [decLoop_step hmore, decLoop_step hmore]
      rcases decStep_ends hc hsize hready hmore with ⟨t, hstep, hleft⟩ | ⟨k, t, hstep, -⟩
      · have ht := Res.keeps_ok_iff.mp (hstep ▸ decStep_withoutDecoder c s)
        rw [hstep, Res.bind_ok, Res.bind_ok]
        exact ih (by rwa [hdr_of_withoutDecoder ht]) (by rwa [decReady_of_withoutDecoder ht]) (by omega)
      · rw [hstep, Res.bind_raised, Res.bind_raised]
    · have hstop := Bool.eq_false_of_not_eq_true hmore
      rw [decLoop_stop hstop, decLoop_stop hstop]

end Loop

/-! ### `DEC.RUN` -/

theorem err_of_hostSide {s t : State} (h : t.hostSide = s.hostSide) : t.err = s.err := by
  simp only [State.hostSide, Prod.mk.injEq] at h
  exact State.err_eq_of_status h.2.2.2.2.1

section Run
variable {c : Config} (hc : c.Bounded) {s : State} (hsize : s.hdr.origSize.toNat ≤ c.nMax) (hready : decReady s = true)

theorem decRun_ready (hready : decReady s = true) : decRun c s =
    (decLoop c (s.hdr.origSize.toNat + s.len .mtch / 3) s).bind fun _ t => .ok () (decEnd c t) :=
  checked_pass hready (by simp)

theorem roundsLeft_le (s : State) : s.roundsLeft ≤ s.hdr.origSize.toNat + s.len .mtch / 3 := by
  rw [State.roundsLeft]
  omega

theorem decEnd_withoutDecoder (c : Config) (s : State) : (decEnd c s).withoutDecoder = s.withoutDecoder := by
  unfold decEnd
  split
  · exact (updates_withoutDecoder s 0#32 0#32 0#32 0#32 _).2.2.2
  · rfl

include hc hsize hready

/-- `DEC.RUN` is not refused once its units are ready: it ends `ok` with the output at its size, or it faults. -/
theorem decRun_ends :
    (∃ t, decLoop c (s.hdr.origSize.toNat + s.len .mtch / 3) s = .ok () t ∧ decRun c s = .ok () (decEnd c t) ∧
        t.withoutDecoder = s.withoutDecoder ∧ decMore t = false) ∨
      ∃ k t, decRun c s = .raised k t ∧ t.withoutDecoder = s.withoutDecoder ∧ LoopFault c s k := by
  rw [decRun_ready hready]
  rcases decLoop_ends hc hsize hready (roundsLeft_le s) with ⟨t, hrun, ht, hstop⟩ | ⟨k, t, hrun, ht, hk⟩ <;> rw [hrun]
  · exact .inl ⟨t, rfl, rfl, ht, hstop⟩
  · exact .inr ⟨k, t, rfl, ht, hk⟩

/-- One round taken out of the loop (45_orchestration R243). -/
theorem decRun_step (hmore : decMore s = true) {t : State} (hstep : decStep c s = .ok () t) : decRun c s = decRun c t := by
  have ht := Res.keeps_ok_iff.mp (hstep ▸ decStep_withoutDecoder c s)
  have hmtch := State.len_congr (buf_of_withoutDecoder ht (sp := .mtch) (by decide))
  rw [decRun_ready hready, decRun_ready (by rwa [decReady_of_withoutDecoder ht]), hdr_of_withoutDecoder ht, hmtch,
    ← decLoop_succ hc hsize hready (roundsLeft_le s), decLoop_step hmore, hstep, Res.bind_ok]

/-- The loop does not look at `STATUS`: from two states that differ by it alone `DEC.RUN` ends in one and the same state. -/
theorem finish_decRun (hs : s.err = 0#4) {u : State} (hsu : DifferByStatus s u) (hu : u.err = 0#4) (a b : State) :
    finish a (decRun c s) = finish b (decRun c u) := by
  have ha := differByStatus_lockstep.alike hsu
  have hrel : Res.Rel DifferByStatus (decRun c s) (decRun c u) := by
    rw [decRun_ready hready, decRun_ready (ha.decReady.trans hready), hsu.hdr, ha.len]
    exact (differByStatus_lockstep.decLoop hsu hc (fun h => h.hdr) _).bind fun _ _ _ h => .ok _ h.decEnd
  have herr (v : State) (hv : v.err = 0#4) : (decRun c v).Keeps fun t => t.err = 0#4 :=
    (decRun_keepsHost rfl).imp fun t ht => (err_of_hostSide ht).trans hv
  have hr := herr s hs
  have hr' := herr u hu
  have hends : decRun c s ≠ .refused := by
    rcases decRun_ends hc hsize hready with ⟨t, -, h, -⟩ | ⟨k, t, h, -⟩ <;> rw [h] <;> exact nofun
  generalize decRun c s = r at *
  generalize decRun c u = r' at *
  cases hrel with
  | ok _ h =>
    obtain ⟨w, rfl⟩ := h
    rw [finish, finish, State.setDone, State.setDone, Res.keeps_ok_iff.mp hr, Res.keeps_ok_iff.mp hr']
  | raised k h =>
    obtain ⟨w, rfl⟩ := h
    rw [finish, finish, State.takeFault_eq k (Res.keeps_raised_iff.mp hr).2, State.takeFault_eq k (Res.keeps_raised_iff.mp hr').2]
  | refused => exact absurd rfl hends

end Run

theorem exec_decRun {s : State} (hs : s.err = 0#4) : exec .decRun s = .next (finish s (decRun s.cfg s)) := by
  rw [exec_eq_command (by decide), command, if_pos hs, bodyOf]

/-- Settles O43: with nothing to do the loop makes no round; else it makes one (`decRun_step`), and the command that starts again
behind it, with `STATUS` written, ends in the same state (`finish_decRun`). -/
theorem decRunUnrolls : Obligations.DecRunUnrolls := by
  intro s hs
  refine ⟨fun hbad => exec_of_refused (by decide) hs (by rw [bodyOf]; exact checked_refuses (decReady_eq_false hbad)),
    fun hc hdec hhdr hbr hrd hss hfull hsize => ?_⟩
  have hready : decReady s = true := (decReady_iff s).mpr ⟨hdec, hhdr, hbr, hrd, hss, hfull⟩
  refine ⟨fun hdone => ?_, fun hlt => ?_⟩
  · have hstop : decMore s = false := decide_eq_false (not_lt.mpr hdone)
    have hrun : decRun s.cfg s = .ok () (decEnd s.cfg s) := by rw [decRun_ready hready, decLoop_stop hstop, Res.bind_ok]
    rw [exec_of_ok (i := .decRun) (by decide) hs hrun]
    cases ho : s.cfg.decOvershoot with
    | keep => rw [decEnd_keep ho, if_neg nofun]
    | truncate => rw [decEnd_truncate ho hdone]; rfl
  · have hmore : decMore s = true := decide_eq_true hlt
    rcases decStep_ends hc hsize hready hmore with ⟨t, hstep, -⟩ | ⟨k, t, hstep, -⟩
    · have ht := Res.keeps_ok_iff.mp (hstep ▸ decStep_withoutDecoder s.cfg s)
      have ht0 : t.hostSide = s.hostSide := Res.keeps_ok_iff.mp (hstep ▸ decStep_keepsHost rfl)
      have htc : t.cfg = s.cfg := congrArg (fun h => h.2.2.2.2.2.2) ht0
      have htu : DifferByStatus t { t with status := mkStatus 0#4 true } := ⟨_, rfl⟩
      have hu0 : { t with status := mkStatus 0#4 true }.err = 0#4 := (mkStatus_fields 0#4 true).1
      have huc : { t with status := mkStatus 0#4 true }.cfg = s.cfg := htc
      refine ⟨_, exec_of_ok (i := .decStep) (by decide) hs hstep, fun hne => absurd hu0 hne, fun _ => ?_⟩
      generalize { t with status := mkStatus 0#4 true } = u at *
      rw [exec_decRun hs, exec_decRun hu0, decRun_step hc hsize hready hmore hstep, huc]
      exact congrArg _ (finish_decRun hc (by rwa [hdr_of_withoutDecoder ht]) (by rwa [decReady_of_withoutDecoder ht])
        ((err_of_hostSide ht0).trans hs) htu hu0 _ _)
    · have hu := exec_of_fault (i := .decStep) (by decide) hs hstep
      have hrun : decRun s.cfg s = .raised k t := by
        rw [decRun_ready hready, ← decLoop_succ hc hsize hready (roundsLeft_le s), decLoop_step hmore, hstep]
        rfl
      refine ⟨_, hu, fun _ => exec_of_fault (by decide) hs hrun, fun h0 =>
        absurd ((mkStatus_fields k.code true).1.symm.trans h0) k.code_ne_zero⟩

/-! ### How long the output gets -/

/-- With no flag bit left every token is a literal (40_bitio R128), which moves neither cursor. -/
theorem decLoop_literals {c : Config} (hc : c.Bounded) {s : State} (hsize : s.hdr.origSize.toNat ≤ c.nMax)
    (hready : decReady s = true) (hfits : ∀ sp ∈ [Space.flags, .mtch, .rans], s.len sp ≤ capacity c sp)
    (hpast : 8 * s.len .flags ≤ s.brPos.toNat) {fuel : Nat} (hfuel : s.hdr.origSize.toNat - s.len .out ≤ fuel) :
    ∃ t, decLoop c fuel s = .ok () t ∧ t.hdr = s.hdr ∧ t.len .out = max (s.len .out) s.hdr.origSize.toNat ∧
      t.brPos = s.brPos ∧ t.decMpos = s.decMpos := by
  induction fuel generalizing s with
  | zero => exact ⟨s, rfl, rfl, by omega, rfl, rfl⟩
  | succ fuel ih =>
    by_cases hmore : decMore s = true
    swap
    · have hge : s.hdr.origSize.toNat ≤ s.len .out := not_lt.mp (mt decide_eq_true hmore)
      exact ⟨s, decLoop_stop (Bool.eq_false_of_not_eq_true hmore), rfl, by omega, rfl, rfl⟩
    have hlt : s.len .out < s.hdr.origSize.toNat := of_decide_eq_true hmore
    have hroom : s.len .out < capacity c .out := by simp only [capacity]; omega
    obtain ⟨q, x, p, sym, hq, hstep⟩ := decStep_literal hc hready hmore
      (by simpa [hroom.le] using hfits) (flagsBit_past hpast) hroom
    rw [if_neg (by omega)] at hq
    obtain rfl : q = s.brPos := BitVec.eq_of_toNat_eq hq
    have ht := Res.keeps_ok_iff.mp (hstep ▸ decStep_withoutDecoder c s)
    have hlen := (appended_spec hc (sp := .out) (s := (s.setBrPos s.brPos).setDecoder x p) sym hroom).1
    change _ = s.len .out + 1 at hlen
    have hbr : (((s.setBrPos s.brPos).setDecoder x p).appended .out sym).brPos = s.brPos := rfl
    have hmpos : (((s.setBrPos s.brPos).setDecoder x p).appended .out sym).decMpos = s.decMpos := rfl
    rw [decLoop_step hmore, hstep, Res.bind_ok]
    generalize ((s.setBrPos s.brPos).setDecoder x p).appended .out sym = u at *
    have hbuf {sp : Space} (hsp : sp ≠ .out) : u.len sp = s.len sp := State.len_congr (buf_of_withoutDecoder ht hsp)
    have hhdr := hdr_of_withoutDecoder ht
    obtain ⟨t, hrun, hthdr, htlen, htbr, htmpos⟩ := ih (s := u) (by rwa [hhdr]) (by rwa [decReady_of_withoutDecoder ht])
      (fun sp hsp => (hbuf (by rintro rfl; simp at hsp)).trans_le (hfits sp hsp)) (by rwa [hbr, hbuf (by decide)])
      (by rw [hhdr, hlen]; omega)
    exact ⟨t, hrun, hthdr.trans hhdr, by rw [htlen, hhdr, hlen]; omega, htbr.trans hbr, htmpos.trans hmpos⟩

theorem decEnd_cursors (c : Config) (s : State) : (decEnd c s).brPos = s.brPos ∧ (decEnd c s).decMpos = s.decMpos := by
  unfold decEnd
  split
  · exact ⟨State.setLen_brPos .out _ s, State.setLen_decMpos .out _ s⟩
  · exact ⟨rfl, rfl⟩

theorem decEnd_byte (c : Config) (s : State) (sp : Space) (a : Nat) : (decEnd c s).byte sp a = s.byte sp a := by
  unfold decEnd
  split
  · exact State.setLen_byte .out sp _ s a
  · rfl

/-- The length `DEC.RUN` leaves behind a loop that has reached the original size (45_orchestration R242; 93 U5). -/
theorem decEnd_len {c : Config} {s : State} (h : s.hdr.origSize.toNat ≤ s.len .out) :
    (decEnd c s).len .out = if c.decOvershoot = .truncate then s.hdr.origSize.toNat else s.len .out := by
  cases ho : c.decOvershoot with
  | keep => rw [decEnd_keep ho, if_neg nofun]
  | truncate => rw [decEnd_truncate ho h, State.setLen_len_same, if_pos rfl]

/-- The loop stores behind the output it finds, at most 254 bytes past the original size. -/
theorem decLoop_stores {s : State} (hc : s.cfg.Bounded) (fuel : Nat) :
    (decLoop s.cfg fuel s).Keeps fun t => Framed .decRun s t ∧ t.len .out ≤ max (s.len .out) (s.hdr.origSize.toNat + 254) := by
  refine decLoop_keeps (fun t ⟨ht, hlen⟩ => Res.Keeps.and ?_ ?_) ⟨Framed.refl _ s, le_max_left _ _⟩
  · exact decStep_framed hc ht (by simp [writesOf]) rfl (by decide) (fun _ _ => by decide) fun _ _ _ _ => by decide
  · have hhdr : t.hdr = s.hdr := ht.fields .hdr (by decide)
    exact (decStep_len_le s.cfg t).imp fun u hu => by rw [hhdr] at hu; omega

/-- Settles O44: without flag bits the loop is `decLoop_literals`; one that ends `ok` has reached the original size
(`decRun_ends`) within the bounds of `decLoop_stores`. -/
theorem decRunEnds : Obligations.DecRunEnds := by
  intro s hs hc hsize
  refine ⟨fun hready hpast hflags hmtch hrans => ?_, fun t h h0 => ?_⟩
  · obtain ⟨t, hrun, hhdr, hlen, hbr, hmpos⟩ := decLoop_literals hc hsize hready (by simp [hflags, hmtch, hrans]) hpast
      (fuel := s.hdr.origSize.toNat + s.len .mtch / 3) (by omega)
    have hbody : decRun s.cfg s = .ok () (decEnd s.cfg t) := by rw [decRun_ready hready, hrun, Res.bind_ok]
    obtain ⟨ebr, empos⟩ := decEnd_cursors s.cfg t
    refine ⟨_, exec_of_ok (i := .decRun) (by decide) hs hbody, rfl, ?_, ebr.trans hbr, empos.trans hmpos⟩
    refine (decEnd_len (c := s.cfg) (s := t) (by rw [hhdr, hlen]; exact le_max_right _ _)).trans ?_
    rw [hhdr, hlen]
  · obtain ⟨u, hbody, rfl⟩ := body_ok_of_exec (by decide) hs h h0
    have hready : decReady s = true := Bool.eq_true_of_not_eq_false fun hf => by
      cases hbody.symm.trans (show decRun s.cfg s = _ from checked_refuses hf)
    rcases decRun_ends hc hsize hready with ⟨v, hloop, hrun, hv, hstop⟩ | ⟨k, v, hrun, -⟩ <;>
      cases hbody.symm.trans hrun
    obtain ⟨hframe, hle⟩ := Res.keeps_ok_iff.mp (hloop ▸ decLoop_stores hc _)
    have hge : v.hdr.origSize.toNat ≤ v.len .out := not_lt.mp (of_decide_eq_false hstop)
    have hlen := decEnd_len (c := s.cfg) hge
    have hbyte := decEnd_byte s.cfg v
    have hgrow := hframe.start (sp := .out) rfl
    rw [hdr_of_withoutDecoder hv] at hge hlen
    change _ ≤ (decEnd s.cfg v).len .out ∧ (decEnd s.cfg v).len .out ≤ _ ∧ (_ → _ ≤ (decEnd s.cfg v).len .out) ∧
      (_ → (decEnd s.cfg v).len .out = _) ∧ ∀ a, _ → (decEnd s.cfg v).byte .out a = _
    have hkept : ∀ a, a < s.len .out → (decEnd s.cfg v).byte .out a = s.byte .out a := fun a ha =>
      (hbyte .out a).trans (hframe.bytes fun n hn => .inl (by cases hn; exact ha))
    rw [hlen]
    refine ⟨?_, ?_, fun ho => ?_, fun ho => if_pos ho, hkept⟩
    · split <;> omega
    · split <;> omega
    · rwa [ho, if_neg nofun]

end Sys2Proof.Machine


/-! PROOFS. What `COMPRESS` and `DECOMPRESS` leave (spec 45_orchestration R230, R232; 70_reset R306): the host's side and
their input buffer on every outcome, and the state of a `COMPRESS` that stops at once. -/

namespace Sys2Proof.Machine

/-! ### The input buffer is kept -/

/-- A space holds a buffer. -/
def State.Holds (s : State) (sp : Space) (b : Buf) : Prop := s.buf sp = b

section Holds
variable {c : Config} {s : State} {sp : Space} {b : Buf} (hs : s.Holds sp b)
include hs

theorem State.Holds.setBuf {x : Space} (hx : x ≠ sp) (b' : Buf) : (s.setBuf x b').Holds sp b :=
  (State.setBuf_buf_ne hx.symm b' s).trans hs

theorem State.Holds.setLen {x : Space} (hx : x ≠ sp) (n : Word) : (s.setLen x n).Holds sp b := hs.setBuf hx _

theorem State.Holds.load {x : Space} (hx : x ≠ sp) (bs : List Byte) : (s.load x bs).Holds sp b :=
  State.Holds.setLen (hs.setBuf hx _) hx _

theorem State.Holds.setLzP (p : Word) : (s.setLzP p).Holds sp b := hs

theorem State.Holds.setReState (x : Word) : (s.setReState x).Holds sp b := hs

theorem State.Holds.setDecMpos (p : Word) : (s.setDecMpos p).Holds sp b := hs

theorem State.Holds.setHdr (h : Header) : (s.setHdr h).Holds sp b := hs

theorem State.Holds.setValid (u : ValidBit) : (s.setValid u).Holds sp b := hs

end Holds

/-- The units' updates keep a buffer whose length register they may not write. -/
theorem holds_keptBy (c : Config) (sp : Space) (b : Buf) : KeptBy c (· ≠ .len sp) fun t => t.Holds sp b where
  appended {x _ _} hW _ ht :=
    have hne : x ≠ sp := fun h => hW (congrArg Field.len h)
    State.Holds.setLen (ht.setBuf hne _) hne _
  bit _ _ _ ht := ht
  emptied _ _ ht := ht
  setFlushed _ ht := ht
  setBrPos _ ht := ht
  setDecoder _ _ ht := ht
  setLzP _ ht := ht
  setDecMpos _ ht := ht
  setHdr _ ht := ht
  setRaw _ ht := ht
  setResult _ ht := ht
  setValid _ _ ht := ht
  closeEncoder _ ht := ht
  putModel _ _ _ _ ht := ht
  putSymbol _ _ _ _ ht := ht

theorem reinit_buf (c : Config) (kept sp : Space) (s : State) :
    (s.reinit c kept).buf sp = if sp = kept then s.buf sp else Buf.fresh (s.epoch + 1) := by
  cases sp <;> simp [State.reinit, State.wipe, State.buf]

theorem reinit_kept (c : Config) (kept : Space) (s : State) : (s.reinit c kept).buf kept = s.buf kept := by
  rw [reinit_buf, if_pos rfl]

theorem compress_keeps_inp (c : Config) (s : State) : (compress c s).Keeps fun t => t.Holds .inp (s.buf .inp) := by
  have hs : s.Holds .inp (s.buf .inp) := rfl
  have hr : (s.reinit c .inp).Holds .inp (s.buf .inp) := reinit_kept c .inp s
  generalize s.buf .inp = b at *
  have hU := holds_keptBy c .inp b
  have hW : ∀ i ∈ [Instr.ssCount, .lzStep, .bwFlush, .rePut, .reFlush], Allows (· ≠ .len .inp) i := by
    simp [Allows, writesOf]
  have hbw {t : State} (ht : t.Holds .inp b) : (bwInit t).Holds .inp b := ht.setLen (by decide) _
  have hlz {t : State} (ht : t.Holds .inp b) : (lzInit t).Holds .inp b :=
    (((ht.setLzP 0#32).setLen (x := .lit) (by decide) 0#32).setLen (x := .mtch) (by decide) 0#32).setValid .lz
  have hre {t : State} (ht : t.Holds .inp b) : (reInit c t).Holds .inp b :=
    ((ht.setReState _).setLen (x := .rans) (by decide) 0#32).setValid .re
  have hparse {t : State} (ht : t.Holds .inp b) : (lzParse c t).Keeps fun t => t.Holds .inp b :=
    checked_keeps ht (lzLoop_keeps (fun _ ht => hU.lzStep_keeps (hW _ (by decide)) ht) (hlz ht))
  have hstore {t : State} (ht : t.Holds .inp b) : (ssStore c t).Keeps fun t => t.Holds .inp b :=
    checked_keeps ht (.ok _ (ht.load (by decide) _))
  have hpack {t : State} (ht : t.Holds .inp b) : (ctPack c t).Keeps fun t => t.Holds .inp b :=
    checked_keeps ht (.ok _ (((ht.setHdr _).load (by decide) _).setValid _))
  refine checked_keeps hs (Res.keeps_ite (fun _ => .raised (by decide) hr) fun _ => ?_)
  exact (hU.ssCount_keeps (hW _ (by decide)) hr).andThen fun _ _ h1 =>
    (hparse (hbw h1)).andThen fun _ _ h2 =>
    (hU.bwFlush_keeps (hW _ (by decide)) h2).andThen fun _ _ h3 =>
    (hU.putLiterals_keeps (hW _ (by decide)) (hre h3)).andThen fun _ _ h4 =>
    (hU.reFlush_keeps (hW _ (by decide)) h4).andThen fun _ _ h5 =>
    (hstore h5).andThen fun _ _ h6 => hpack h6

theorem ctUnpack_keeps_art {c : Config} {s : State} {b : Buf} (hs : s.Holds .art b) :
    (ctUnpack c s).Keeps fun t => t.Holds .art b := by
  refine checked_keeps hs ?_
  refine Res.keeps_ite (fun _ => .raised (by decide) hs) fun _ => ?_
  refine Res.keeps_ite (fun _ => .raised (by decide) (hs.setHdr _)) fun _ => ?_
  refine Res.keeps_ite (fun _ => .raised (by decide) (hs.setHdr _)) fun _ => ?_
  refine Res.keeps_ite (fun _ => .raised (by decide) (hs.setHdr _)) fun _ => ?_
  refine Res.keeps_ite (fun _ => .raised (by decide) (hs.setHdr _)) fun _ => .ok _ ?_
  exact ((((hs.setHdr _).load (by decide) _).load (by decide) _).load (by decide) _).load (by decide) _ |>.setValid _

theorem decEnd_holds {c : Config} {s : State} {b : Buf} (hs : s.Holds .art b) : (decEnd c s).Holds .art b :=
  (buf_of_withoutDecoder (decEnd_withoutDecoder c s) (by decide)).trans hs

theorem decompress_keeps_art (c : Config) (s : State) : (decompress c s).Keeps fun t => t.Holds .art (s.buf .art) := by
  have hs : s.Holds .art (s.buf .art) := rfl
  have hr : (s.reinit c .art).Holds .art (s.buf .art) := reinit_kept c .art s
  generalize s.buf .art = b at *
  have hU := holds_keptBy c .art b
  have hW : ∀ i ∈ [Instr.ssLoad, .rdInit, .brInit], Allows (· ≠ .len .art) i := by simp [Allows, writesOf]
  have hinit {t : State} (ht : t.Holds .art b) : (decInit c t).Keeps fun t => t.Holds .art b :=
    checked_keeps ht (Res.keeps_ite (fun _ => .raised (by decide) ht) fun _ =>
      .ok _ (((ht.setDecMpos 0#32).setLen (x := .out) (by decide) 0#32).setValid .dec))
  have hstep (t : State) (ht : t.Holds .art b) : (decStep c t).Keeps fun t => t.Holds .art b :=
    hU.decStep_keeps nofun nofun (fun _ _ => ⟨nofun, nofun⟩) (fun _ _ _ _ => nofun) ht
  have hrun {t : State} (ht : t.Holds .art b) : (decRun c t).Keeps fun t => t.Holds .art b :=
    checked_keeps ht ((decLoop_keeps hstep ht).andThen fun _ _ ht => .ok _ (decEnd_holds ht))
  exact checked_keeps hs <| (ctUnpack_keeps_art hr).andThen fun _ _ h1 =>
    (hU.ssLoad_keeps (hW _ (by decide)) h1).andThen fun _ _ h2 =>
    (hU.rdInit_keeps (hW _ (by decide)) h2).andThen fun _ _ h3 =>
    (hU.brInit_keeps (hW _ (by decide)) h3).andThen fun _ _ h4 =>
    (hinit h4).andThen fun _ _ h5 => hrun h5

/-- The fields that a composite command's rule does not name are the host's side and the length register of its input. -/
theorem unchanged_composite {i : Instr} {sp : Space} {s t : State}
    (hi : i = .compress ∧ sp = .inp ∨ i = .decompress ∧ sp = .art)
    (h : t.hostSide = s.hostSide) (hb : t.buf sp = s.buf sp) : Unchanged (writesOf i) s t := by
  simp only [State.hostSide, Prod.mk.injEq] at h
  obtain ⟨hcmd, harg0, harg1, hresult, -, hpending, hcfg⟩ := h
  intro f hf
  have hmem : f ∈ [Field.cmd, .arg0, .arg1, .result, .pending, .cfg, .len sp] := by
    obtain ⟨rfl, rfl⟩ | ⟨rfl, rfl⟩ := hi
    all_goals
      cases f with
      | len x => cases x <;> simp [writesOf] at hf ⊢
      | _ => simp [writesOf] at hf ⊢
  simp only [List.mem_cons, List.not_mem_nil, or_false] at hmem
  obtain rfl | rfl | rfl | rfl | rfl | rfl | rfl := hmem
  · exact hcmd
  · exact harg0
  · exact harg1
  · exact hresult
  · exact hpending
  · exact hcfg
  · exact congrArg Buf.len hb

/-- What an instruction leaves: the fields that its rule does not name and one buffer's bytes. -/
def LeavesBuffer (i : Instr) (sp : Space) (s t : State) : Prop :=
  Unchanged (writesOf i) s t ∧ ∀ a, t.byte sp a = s.byte sp a

theorem LeavesBuffer.status {i : Instr} {sp : Space} {s t : State} (h : LeavesBuffer i sp s t) (v : BitVec 8) :
    LeavesBuffer i sp s { t with status := v } :=
  ⟨h.1.trans (unchanged_status t (status_mem_writesOf i) v),
    fun a => (State.byte_congr (congrFun (withStatus_buf t v) sp) a).trans (h.2 a)⟩

/-- Settles O57: the body leaves the host's side (`compress_keepsHost`, `decompress_keepsHost`) and the input buffer, and the end of
the command writes `STATUS` alone. -/
theorem frameOfCompositeCommands : Obligations.FrameOfCompositeCommands := by
  refine ⟨fun s t h => ?_, fun s t h => ?_⟩
  · refine command_keeps (P := LeavesBuffer .compress .inp s) (fun _ v ht => ht.status v)
      ⟨Unchanged.refl _ s, fun _ => rfl⟩ (Res.Keeps.all ?_) h
    exact ((compress_keepsHost rfl).and (compress_keeps_inp s.cfg s)).imp fun t ⟨hh, hb⟩ =>
      ⟨unchanged_composite (.inl ⟨rfl, rfl⟩) hh hb, State.byte_congr hb⟩
  · refine command_keeps (P := LeavesBuffer .decompress .art s) (fun _ v ht => ht.status v)
      ⟨Unchanged.refl _ s, fun _ => rfl⟩ (Res.Keeps.all ?_) h
    exact ((decompress_keepsHost rfl).and (decompress_keeps_art s.cfg s)).imp fun t ⟨hh, hb⟩ =>
      ⟨unchanged_composite (.inr ⟨rfl, rfl⟩) hh hb, State.byte_congr hb⟩

/-! ### `COMPRESS` that stops at once -/

theorem reinit_reinitValues (kept : Space) (s : State) : ReinitValues kept (s.reinit s.cfg kept) := by
  refine ⟨rfl, fun sp hsp => ?_, rfl, rfl, rfl, rfl, rfl, rfl⟩
  rw [State.len, reinit_buf, if_neg hsp]
  rfl

theorem ReinitValues.withHdr {kept : Space} {s : State} (h : ReinitValues kept s) (hdr : Header) (v : BitVec 8) :
    ReinitValues kept { s.setHdr hdr with status := v } := by
  obtain ⟨hvalid, hlen, hcur, hcnt, hbr, hre, hlz, hdec⟩ := h
  exact ⟨hvalid, fun sp hsp => (State.len_congr (congrFun (withStatus_buf _ v) sp)).trans (hlen sp hsp),
    hcur, hcnt, hbr, hre, hlz, hdec⟩

/-- Settles O45: an empty input is found behind the re-initialisation, a long one before it. -/
theorem compressEmptyOrTooLong : Obligations.CompressEmptyOrTooLong := by
  intro s hs
  refine ⟨fun hempty => ?_, fun hlong => ?_⟩
  · have hbody : compress s.cfg s = .raised .emptyInput (s.reinit s.cfg .inp) :=
      (checked_pass rfl (by simp [hempty])).trans (if_pos ((State.len_congr (reinit_kept _ _ s)).trans hempty))
    have hexec := exec_of_fault (i := .compress) (by decide) hs hbody
    have hvalues := (reinit_reinitValues .inp s).withHdr (s.reinit s.cfg .inp).hdr (mkStatus 5#4 true)
    have hframe := (frameOfCompositeCommands.1 s _ hexec).1
    exact ⟨_, hexec, rfl, hvalues.2.1 .art (by decide), rfl, hvalues, hframe⟩
  · obtain ⟨hover, -⟩ := inputBufferOverflow s hs
    exact hover .compress .inp (by decide) hlong

end Sys2Proof.Machine


/-! PROOFS. The stages of `DECOMPRESS` (spec 45_orchestration R236, R239, R243; 60_exceptions R274; 70_reset R306). -/

namespace Sys2Proof.Machine

/-! ### The artifact behind the re-initialisation -/

/-- The sum of the frequencies that an artifact's model region lists (44_container R210, R214). -/
def State.artModelSum (s : State) : Nat :=
  sumSymbols (s.regionFreq .art (24 + s.number32 .art 8 + s.number32 .art 12 + s.number32 .art 16))

section SameArt
variable {s t : State} (h : t.buf .art = s.buf .art)
include h

theorem number32_congr (a : Nat) : t.number32 .art a = s.number32 .art a := by
  simp only [State.number32, State.byte_congr h]

theorem unpackCode_congr (hc : t.cfg = s.cfg) : unpackCode t = unpackCode s := by
  simp only [unpackCode, number32_congr h, State.len_congr h, hc]

theorem artModelSum_congr : t.artModelSum = s.artModelSum := by
  simp only [State.artModelSum, number32_congr h]
  congr 1
  funext sym
  rw [State.regionFreq, State.regionFreq, State.byte_congr h, State.byte_congr h]

end SameArt

/-- The checks of `CT.UNPACK` over the state that `REINIT` leaves are those over the artifact that the command found. -/
theorem unpackCode_reinit (s : State) : unpackCode (s.reinit s.cfg .art) = unpackCode s :=
  unpackCode_congr (reinit_kept s.cfg .art s) rfl

/-! ### What the unit commands find behind `CT.UNPACK` -/

/-- A header and four regions that the unit commands of `DECOMPRESS` take. -/
structure Loadable (c : Config) (s : State) : Prop where
  model : s.len .model = 512
  rans : 4 ≤ s.len .rans
  fits : ∀ sp ∈ [Space.flags, .mtch, .rans], s.len sp ≤ capacity c sp
  hdr : s.isValid .hdr = true

/-- The sizes of an artifact that passes every check (44_container R214). -/
theorem sizes_of_unpackCode {s : State} (h : unpackCode s = 0#4) : 4 ≤ s.number32 .art 8 ∧
    s.number32 .art 8 ≤ capacity s.cfg .rans ∧ s.number32 .art 12 ≤ capacity s.cfg .flags ∧
    s.number32 .art 16 ≤ capacity s.cfg .mtch := by
  rw [unpackCode] at h
  split_ifs at h with hshort hmagic hheader htruncated hoverflow <;> simp at h
  omega

theorem Unpacked.loadable {s t : State} (h : Unpacked s t) (hcode : unpackCode s = 0#4) : Loadable s.cfg t := by
  obtain ⟨hmin, hrans, hflags, hmtch⟩ := sizes_of_unpackCode hcode
  have lrans := (State.region_of_contents h.rans).1
  have lflags := (State.region_of_contents h.flags).1
  have lmtch := (State.region_of_contents h.mtch).1
  refine ⟨(State.region_of_contents h.model).1, hmin.trans_eq lrans.symm, ?_, ?_⟩
  · simp [lrans, lflags, lmtch, hrans, hflags, hmtch]
  · rw [isValid_of_valid (s := s.setValid .hdr) h.valid, State.setValid_isValid]
    rfl

theorem Unpacked.sum {s t : State} (h : Unpacked s t) : (regionFreqs t).sum = s.artModelSum := by
  have hbyte := (State.region_of_contents h.model).2
  rw [regionFreqs_sum, State.artModelSum]
  congr 1
  funext sym
  have hsym := sym.isLt
  rw [State.regionFreq, State.regionFreq, hbyte _ (by omega), hbyte _ (by omega)]
  simp only [Nat.zero_add, Nat.add_assoc]

theorem Unpacked.origSize {s t : State} (h : Unpacked s t) : t.hdr.origSize.toNat = s.number32 .art 4 := by
  rw [h.hdr]
  exact State.field32_toNat s .art 4

/-! ### The unit commands -/

/-- The state that `SS.LOAD`, `RD.INIT` and `BR.INIT` leave. -/
def State.streamsReady (s : State) : State :=
  ((((s.putModel (regionFreqs s)).setDecoder (s.field32 .rans (s.len .rans - 4)) (s.rans.len - 4#32)).setValid .rd).setBrPos
    0#32).setValid .br

/-- The state that `DEC.INIT` leaves behind them. -/
def State.loaded (s : State) : State := ((s.streamsReady.setDecMpos 0#32).setLen .out 0#32).setValid .dec

theorem rdInit_ok {c : Config} {s : State} (hlen : 4 ≤ s.len .rans) (hcap : s.len .rans ≤ capacity c .rans) :
    rdInit c s = .ok () ((s.setDecoder (s.field32 .rans (s.len .rans - 4)) (s.rans.len - 4#32)).setValid .rd) :=
  checked_pass (decide_eq_true hlen) (by simpa using hcap)

theorem brInit_ok {c : Config} {s : State} (hcap : s.len .flags ≤ capacity c .flags) :
    brInit c s = .ok () ((s.setBrPos 0#32).setValid .br) :=
  checked_pass rfl (by simpa using hcap)

section Loadable
variable {c : Config} {s : State} (h : Loadable c s)
include h

theorem Loadable.ssLoad_sum (hsum : (regionFreqs s).sum = probScale) : ssLoad c s = .ok () (s.putModel (regionFreqs s)) :=
  (ssLoad_eq h.model).trans (if_pos hsum)

theorem Loadable.ssLoad_badModel (hsum : (regionFreqs s).sum ≠ probScale) : ssLoad c s = .raised .badModel s :=
  (ssLoad_eq h.model).trans (if_neg hsum)

/-- The commands between the model and `DEC.INIT` (45_orchestration R236). -/
theorem Loadable.streams {α : Type} (k : State → Res α) : ((rdInit c (s.putModel (regionFreqs s))).bind fun _ s =>
    (brInit c s).bind fun _ s => k s) = k s.streamsReady := by
  have hbuf := putModel_buf (regionFreqs s) s
  have hrans : 4 ≤ (s.putModel (regionFreqs s)).len .rans := h.rans.trans_eq (State.len_congr (hbuf .rans)).symm
  have hflags : (s.putModel (regionFreqs s)).len .flags ≤ capacity c .flags :=
    (State.len_congr (hbuf .flags)).trans_le (h.fits .flags (by simp))
  rw [rdInit_ok hrans ((State.len_congr (hbuf .rans)).trans_le (h.fits .rans (by simp))), Res.bind_ok]
  exact congrArg (Res.bind · fun _ s => k s) (brInit_ok (s := ((s.putModel _).setDecoder _ _).setValid .rd) hflags)

theorem Loadable.streamsReady_hdr : s.streamsReady.isValid .hdr = true := by
  simp [State.streamsReady, State.setValid_isValid, putModel_isValid, h.hdr]

end Loadable

/-! ### The ends of `DECOMPRESS` -/

/-- What an accepted artifact leaves behind `CT.UNPACK`, in the numbers of the artifact that the command found. -/
structure Accepted (s u : State) : Prop where
  loadable : Loadable s.cfg u
  sum : (regionFreqs u).sum = s.artModelSum
  origSize : u.hdr.origSize.toNat = s.number32 .art 4
  flags : u.len .flags = s.number32 .art 12
  valid : u.valid = 0x20#8
  host : u.hostSide = s.hostSide

theorem unpacked_accepted {s : State} (hcode : unpackCode s = 0#4) : Accepted s (unpacked (s.reinit s.cfg .art)) := by
  have hu := unpacked_unpacked (s.reinit s.cfg .art)
  have hart := reinit_kept s.cfg .art s
  exact {
    loadable := hu.loadable ((unpackCode_reinit s).trans hcode)
    sum := hu.sum.trans (artModelSum_congr hart)
    origSize := hu.origSize.trans (number32_congr hart 4)
    flags := (State.region_of_contents hu.flags).1.trans (number32_congr hart 12)
    valid := by rw [hu.valid, (reinit_reinitValues .art s).1]; rfl
    host := by simp [unpacked, unpackRegions] }

section Decompress
variable {s : State} (hcap : s.len .art ≤ capacity s.cfg .art)
include hcap

theorem decompress_eq : decompress s.cfg s =
    (ctUnpack s.cfg (s.reinit s.cfg .art)).bind fun _ t => (ssLoad s.cfg t).bind fun _ t => (rdInit s.cfg t).bind fun _ t =>
      (brInit s.cfg t).bind fun _ t => (decInit s.cfg t).bind fun _ t => decRun s.cfg t :=
  checked_pass rfl (by simpa using hcap)

theorem ctUnpack_reinit_cases :
    (∃ k h, ctUnpack s.cfg (s.reinit s.cfg .art) = .raised k ((s.reinit s.cfg .art).setHdr h) ∧ unpackCode s = k.code) ∨
      (ctUnpack s.cfg (s.reinit s.cfg .art) = .ok () (unpacked (s.reinit s.cfg .art)) ∧ unpackCode s = 0#4) := by
  have hcap' : (s.reinit s.cfg .art).len .art ≤ capacity s.cfg .art :=
    (State.len_congr (reinit_kept s.cfg .art s)).trans_le hcap
  rw [← unpackCode_reinit]
  exact (ctUnpack_cases hcap').imp (fun ⟨k, h, hb, hk, _⟩ => ⟨k, h, hb, hk⟩) fun ⟨hb, hcode, _⟩ => ⟨hb, hcode⟩

/-- A failing check of `CT.UNPACK` stops the command with nothing but the header registers behind the re-initialisation
changed. -/
theorem decompress_of_failing_check (hcode : unpackCode s ≠ 0#4) :
    ∃ k h, decompress s.cfg s = .raised k ((s.reinit s.cfg .art).setHdr h) ∧ unpackCode s = k.code := by
  rcases ctUnpack_reinit_cases hcap with ⟨k, h, hb, hk⟩ | ⟨-, h0⟩
  · exact ⟨k, h, by rw [decompress_eq hcap, hb, Res.bind_raised], hk⟩
  · exact absurd h0 hcode

section Accepted
variable (hcode : unpackCode s = 0#4)
include hcode

theorem ctUnpack_accepted : ctUnpack s.cfg (s.reinit s.cfg .art) = .ok () (unpacked (s.reinit s.cfg .art)) := by
  rcases ctUnpack_reinit_cases hcap with ⟨k, h, -, hk⟩ | ⟨hb, -⟩
  · exact absurd (hk.symm.trans hcode) k.code_ne_zero
  · exact hb

theorem decompress_badModel (hsum : s.artModelSum ≠ probScale) :
    decompress s.cfg s = .raised .badModel (unpacked (s.reinit s.cfg .art)) := by
  have hacc := unpacked_accepted hcode
  rw [decompress_eq hcap, ctUnpack_accepted hcap hcode, Res.bind_ok, hacc.loadable.ssLoad_badModel (hacc.sum ▸ hsum),
    Res.bind_raised]

variable (hsum : s.artModelSum = probScale)
include hsum

theorem decompress_sizeOverflow (hsize : s.cfg.nMax < s.number32 .art 4) :
    decompress s.cfg s = .raised .sizeOverflow (unpacked (s.reinit s.cfg .art)).streamsReady := by
  have hacc := unpacked_accepted hcode
  rw [decompress_eq hcap, ctUnpack_accepted hcap hcode, Res.bind_ok, hacc.loadable.ssLoad_sum (hacc.sum.trans hsum), Res.bind_ok,
    hacc.loadable.streams, decInit_overflow hacc.loadable.streamsReady_hdr (hacc.origSize ▸ hsize : _ < _), Res.bind_raised]

theorem decompress_decRun (hsize : s.number32 .art 4 ≤ s.cfg.nMax) :
    decompress s.cfg s = decRun s.cfg (unpacked (s.reinit s.cfg .art)).loaded := by
  have hacc := unpacked_accepted hcode
  rw [decompress_eq hcap, ctUnpack_accepted hcap hcode, Res.bind_ok, hacc.loadable.ssLoad_sum (hacc.sum.trans hsum), Res.bind_ok,
    hacc.loadable.streams, decInit_ok hacc.loadable.streamsReady_hdr (hacc.origSize.trans_le hsize), Res.bind_ok]
  rfl

end Accepted

end Decompress

/-- Settles O48: the body's ends in the order of its checks. -/
theorem decompressFaults : Obligations.DecompressFaults := by
  intro s hs _
  refine ⟨(inputBufferOverflow s hs).1 .decompress .art (by decide), fun hcap => ?_⟩
  obtain ⟨t, ht⟩ := command_next (bodyOf .decompress) s
  rw [← exec_eq_command (by decide)] at ht
  obtain ⟨hframe, hart⟩ := frameOfCompositeCommands.2 s t ht
  have hfault {k : ErrKind} {u : State} (hb : decompress s.cfg s = .raised k u) : t = { u with status := mkStatus k.code true } :=
    Host.Outcome.next.inj (ht.symm.trans (exec_of_fault (by decide) hs hb))
  refine ⟨t, ht, hframe, hart, fun hcode => ?_, fun hcode hsum => ?_, fun hcode hsum hsize => ?_⟩
  · obtain ⟨k, h, hb, hk⟩ := decompress_of_failing_check hcap hcode
    rw [hfault hb, hk]
    exact ⟨rfl, (reinit_reinitValues .art s).withHdr h _⟩
  · rw [hfault (decompress_badModel hcap hcode hsum)]
    rfl
  · rw [hfault (decompress_sizeOverflow hcap hcode hsum hsize)]
    rfl

end Sys2Proof.Machine


/-! PROOFS. `DECOMPRESS` of an artifact that passes every check ends as `DEC.RUN` behind its unit commands (spec
45_orchestration R236, R242, R243; 70_reset R306). -/

namespace Sys2Proof.Machine

/-! ### The state the unit commands leave -/

section Loaded
variable {c : Config} {s : State} (h : Loadable c s) (hsum : (regionFreqs s).sum = probScale)

theorem State.loaded_buf {sp : Space} (hsp : sp ≠ .out) (s : State) : s.loaded.buf sp = s.buf sp := by
  simp [State.loaded, State.streamsReady, State.setLen, hsp, putModel_buf]

theorem State.loaded_hasTables (s : State) : s.loaded.HasTables (regionFreqs s) := by
  have hfields : s.loaded.freqs = (s.putModel (regionFreqs s)).freqs ∧ s.loaded.cum = (s.putModel (regionFreqs s)).cum := by
    simp [State.loaded, State.streamsReady]
  exact ⟨hfields.1, hfields.2⟩

theorem State.loaded_hdr (s : State) : s.loaded.hdr = s.hdr := by simp [State.loaded, State.streamsReady, State.putModel]

theorem State.loaded_len_out (s : State) : s.loaded.len .out = 0 := by simp [State.loaded]

theorem State.loaded_valid (s : State) : s.loaded.valid = s.valid ||| 0x4D#8 := by
  simp [State.loaded, State.streamsReady, State.putModel, State.setValid, ValidBit.index, BitVec.or_assoc]

include h

theorem Loadable.loaded_fits : ∀ sp ∈ [Space.flags, .mtch, .rans], s.loaded.len sp ≤ capacity c sp := fun sp hsp =>
  (State.len_congr (State.loaded_buf (by rintro rfl; simp at hsp) s)).trans_le (h.fits sp hsp)

include hsum

omit h in
theorem State.loaded_modelOk : s.loaded.ModelOk := s.loaded_hasTables.modelOk ⟨regionFreqs_length s, hsum⟩

theorem Loadable.loaded_ready : decReady s.loaded = true := by
  have hfull : s.loaded.cumAt 256 = 4096 := (State.loaded_modelOk hsum).2.2
  have hvalid : ∀ v ∈ [ValidBit.dec, .hdr, .br, .rd, .ss], s.loaded.isValid v = true := by
    simp [State.loaded, State.streamsReady, State.setValid_isValid, putModel_isValid, h.hdr]
  exact (decReady_iff _).mpr ⟨hvalid _ (by simp), hvalid _ (by simp), hvalid _ (by simp), hvalid _ (by simp),
    hvalid _ (by simp), hfull⟩

end Loaded

/-! ### The unit commands, issued one by one -/

/-- The state behind a command that completed: `STATUS` is the only register a body does not write. -/
def State.completed (s : State) : State := { s with status := mkStatus 0#4 true }

theorem State.completed_err (s : State) : s.completed.err = 0#4 := (mkStatus_fields 0#4 true).1

section Issued
variable {s : State}

theorem exec_rdInit_completed (hlen : 4 ≤ s.len .rans) (hcap : s.len .rans ≤ capacity s.cfg .rans) :
    exec .rdInit s.completed =
      .next ((s.setDecoder (s.field32 .rans (s.len .rans - 4)) (s.rans.len - 4#32)).setValid .rd).completed :=
  (exec_of_ok (i := .rdInit) (by decide) s.completed_err (rdInit_ok (s := s.completed) (c := s.cfg) hlen hcap)).trans rfl

theorem exec_brInit_completed (hcap : s.len .flags ≤ capacity s.cfg .flags) :
    exec .brInit s.completed = .next ((s.setBrPos 0#32).setValid .br).completed :=
  (exec_of_ok (i := .brInit) (by decide) s.completed_err (brInit_ok (s := s.completed) (c := s.cfg) hcap)).trans rfl

theorem exec_decInit_completed (hh : s.isValid .hdr = true) (hsize : s.hdr.origSize.toNat ≤ s.cfg.nMax) :
    exec .decInit s.completed = .next (((s.setDecMpos 0#32).setLen .out 0#32).setValid .dec).completed :=
  (exec_of_ok (i := .decInit) (by decide) s.completed_err (decInit_ok (s := s.completed) (c := s.cfg) hh hsize)).trans rfl

theorem exec_ssLoad_completed (hlen : s.len .model = 512) (hsum : (regionFreqs s).sum = probScale) :
    exec .ssLoad s.completed = .next (s.putModel (regionFreqs s)).completed :=
  (exec_of_ok (i := .ssLoad) (by decide) s.completed_err
    ((ssLoad_eq (s := s.completed) (c := s.cfg) hlen).trans
      (if_pos (show (regionFreqs s.completed).sum = probScale from hsum)))).trans rfl

/-- They complete behind `CT.UNPACK` and leave the state that `DECOMPRESS` reaches. -/
theorem exec_unitCommands (h : Loadable s.cfg s) (hsum : (regionFreqs s).sum = probScale)
    (hsize : s.hdr.origSize.toNat ≤ s.cfg.nMax) :
    ∃ s₂ s₃ s₄, exec .ssLoad s.completed = .next s₂ ∧ exec .rdInit s₂ = .next s₃ ∧
      exec .brInit s₃ = .next s₄ ∧ exec .decInit s₄ = .next s.loaded.completed := by
  have hbuf := putModel_buf (regionFreqs s) s
  have hrans : 4 ≤ (s.putModel (regionFreqs s)).len .rans := h.rans.trans_eq (State.len_congr (hbuf .rans)).symm
  have hrans' : (s.putModel (regionFreqs s)).len .rans ≤ capacity s.cfg .rans :=
    (State.len_congr (hbuf .rans)).trans_le (h.fits .rans (by simp))
  have hflags : (s.putModel (regionFreqs s)).len .flags ≤ capacity s.cfg .flags :=
    (State.len_congr (hbuf .flags)).trans_le (h.fits .flags (by simp))
  exact ⟨_, _, _, exec_ssLoad_completed h.model hsum, exec_rdInit_completed hrans hrans',
    exec_brInit_completed (s := ((s.putModel _).setDecoder _ _).setValid .rd) hflags,
    exec_decInit_completed (s := s.streamsReady) h.streamsReady_hdr hsize⟩

end Issued

/-! ### `DEC.RUN` from there -/

/-- How a `DEC.RUN` whose buffers fit can end: `ok` or with one of the two faults of a match (60_exceptions R263, R264). -/
theorem exec_decRun_ends {s : State} (hs : s.err = 0#4) (hc : s.cfg.Bounded) (hsize : s.hdr.origSize.toNat ≤ s.cfg.nMax)
    (hready : decReady s = true) (hfits : ∀ sp ∈ [Space.flags, .mtch, .rans], s.len sp ≤ capacity s.cfg sp) :
    ∃ (t : State) (e : BitVec 4), exec .decRun s = .next { t with status := mkStatus e true } ∧ e ∈ [0#4, 3#4, 4#4] ∧
      t.withoutDecoder = s.withoutDecoder := by
  rcases decRun_ends hc hsize hready with ⟨t, -, hrun, ht, -⟩ | ⟨k, t, hrun, ht, hk⟩
  · exact ⟨_, 0#4, exec_of_ok (i := .decRun) (by decide) hs hrun, by decide, (decEnd_withoutDecoder s.cfg t).trans ht⟩
  · refine ⟨t, k.code, exec_of_fault (i := .decRun) (by decide) hs hrun, ?_, ht⟩
    rcases hk with rfl | rfl | ⟨-, sp, hsp, hl⟩
    · decide
    · decide
    · exact absurd hl (not_lt.mpr (hfits sp hsp))

theorem valid_of_withoutDecoder {s t : State} (h : t.withoutDecoder = s.withoutDecoder) : t.valid = s.valid := by
  simpa [State.withoutDecoder] using congrArg State.valid h

theorem modelOk_of_withoutDecoder {s t : State} (h : t.withoutDecoder = s.withoutDecoder) (hm : s.ModelOk) : t.ModelOk := by
  obtain ⟨hfreq, hcum⟩ := tables_of_withoutDecoder h
  rw [State.ModelOk, hfreq, hcum]
  exact hm

theorem State.loaded_hostSide (s : State) : s.loaded.hostSide = s.hostSide := by simp [State.loaded, State.streamsReady]

theorem cfg_of_hostSide {s t : State} (h : t.hostSide = s.hostSide) : t.cfg = s.cfg := congrArg (fun h => h.2.2.2.2.2.2) h

theorem exec_ctUnpack_completed {s t : State} (hs : s.err = 0#4) (hb : ctUnpack s.cfg s = .ok () t) :
    exec .ctUnpack s = .next t.completed :=
  exec_of_ok (i := .ctUnpack) (by decide) hs hb

theorem exec_ctUnpack_accepted {s : State} (hs : s.err = 0#4) (hcap : s.len .art ≤ capacity s.cfg .art)
    (hcode : unpackCode s = 0#4) :
    exec .ctUnpack (s.reinit s.cfg .art) = .next (unpacked (s.reinit s.cfg .art)).completed := by
  have hr : (s.reinit s.cfg .art).err = 0#4 := (err_of_hostSide (State.reinit_hostSide s _ _)).trans hs
  have hcfg : (s.reinit s.cfg .art).cfg = s.cfg := cfg_of_hostSide (State.reinit_hostSide s _ _)
  exact exec_ctUnpack_completed hr (by rw [hcfg]; exact ctUnpack_accepted hcap hcode)

/-- `DECOMPRESS` ends as a `DEC.RUN` issued behind its unit commands (45_orchestration R236). -/
theorem exec_decompress_decRun {s : State} (hs : s.err = 0#4) (hc : s.cfg.Bounded) (hcap : s.len .art ≤ capacity s.cfg .art)
    (hcode : unpackCode s = 0#4) (hsum : s.artModelSum = probScale) (hsize : s.number32 .art 4 ≤ s.cfg.nMax) :
    exec .decompress s = exec .decRun (unpacked (s.reinit s.cfg .art)).loaded.completed := by
  have hbody : bodyOf .decompress s = decRun s.cfg (unpacked (s.reinit s.cfg .art)).loaded :=
    decompress_decRun hcap hcode hsum hsize
  have hu := unpacked_accepted hcode
  generalize unpacked (s.reinit s.cfg .art) = u at *
  have hhost : u.loaded.hostSide = s.hostSide := u.loaded_hostSide.trans hu.host
  have hcfg : u.loaded.completed.cfg = s.cfg := cfg_of_hostSide (t := u.loaded) hhost
  have hhdr : u.loaded.hdr = u.hdr := u.loaded_hdr
  rw [exec_decRun u.loaded.completed_err, hcfg, exec_eq_command (by decide), command, if_pos hs, hbody]
  exact congrArg _ (finish_decRun hc (by rw [hhdr, hu.origSize]; exact hsize) (hu.loadable.loaded_ready (hu.sum.trans hsum))
    ((err_of_hostSide hhost).trans hs) ⟨_, rfl⟩ u.loaded.completed_err _ _)

/-- What a `DEC.RUN` makes of an empty output and flags from their start (45_orchestration R242, R243). -/
theorem exec_decRun_fromStart {s : State} (hs : s.err = 0#4) (hc : s.cfg.Bounded) (hsize : s.hdr.origSize.toNat ≤ s.cfg.nMax)
    (hready : decReady s = true) (hfits : ∀ sp ∈ [Space.flags, .mtch, .rans], s.len sp ≤ capacity s.cfg sp)
    (hout : s.len .out = 0) :
    ∃ t, exec .decRun s = .next t ∧ t.status = mkStatus t.err true ∧ t.err ∈ [0#4, 3#4, 4#4] ∧ t.valid = s.valid ∧
      t.hdr = s.hdr ∧ (s.ModelOk → t.ModelOk) ∧
      (t.err = 0#4 → s.hdr.origSize.toNat ≤ t.len .out ∧ t.len .out ≤ s.hdr.origSize.toNat + 254 ∧
        (s.cfg.decOvershoot = .truncate → t.len .out = s.hdr.origSize.toNat)) ∧
      (s.len .flags = 0 → t.err = 0#4 ∧ t.len .out = s.hdr.origSize.toNat) := by
  obtain ⟨w, e, hrun, he, hw⟩ := exec_decRun_ends hs hc hsize hready hfits
  obtain ⟨hempty, hends⟩ := decRunEnds s hs hc hsize
  have herr : { w with status := mkStatus e true }.err = e := (mkStatus_fields e true).1
  refine ⟨_, hrun, by rw [herr], by rwa [herr], valid_of_withoutDecoder (t := w) hw, hdr_of_withoutDecoder (t := w) hw,
    modelOk_of_withoutDecoder (t := w) hw, fun h0 => ?_, fun hflags => ?_⟩
  · obtain ⟨hreached, hbound, -, htruncate, -⟩ := hends _ hrun h0
    exact ⟨hreached, hbound.trans_eq (by rw [hout, max_eq_right (Nat.zero_le _)]), htruncate⟩
  · obtain ⟨t, ht, hstatus, hlen, -⟩ := hempty hready (by omega) (hfits _ (by simp)) (hfits _ (by simp)) (hfits _ (by simp))
    rw [hout, max_eq_right (Nat.zero_le _), ite_self] at hlen
    cases hrun.symm.trans ht
    exact ⟨(congrArg (BitVec.extractLsb' 4 4) hstatus).trans (mkStatus_fields 0#4 true).1, hlen⟩

/-- Settles O49: the unit commands are `exec_unitCommands`, and `DECOMPRESS` ends as the `DEC.RUN` issued behind them
(`exec_decompress_decRun`, `exec_decRun_fromStart`). -/
theorem decompressCompletes : Obligations.DecompressCompletes := by
  intro s hs hc hcap hcode hsize hsum
  have hexec := exec_decompress_decRun hs hc hcap hcode hsum hsize
  have hunpack := exec_ctUnpack_accepted hs hcap hcode
  have hu := unpacked_accepted hcode
  generalize unpacked (s.reinit s.cfg .art) = u at *
  have hcfg := cfg_of_hostSide hu.host
  have hload : Loadable u.cfg u := hcfg ▸ hu.loadable
  have hsum' := hu.sum.trans hsum
  have hsize' : u.hdr.origSize.toNat ≤ u.cfg.nMax := by rw [hu.origSize, hcfg]; exact hsize
  obtain ⟨s₂, s₃, s₄, h₂, h₃, h₄, h₅⟩ := exec_unitCommands hload hsum' hsize'
  have hhdr := u.loaded_hdr
  have hout := u.loaded_len_out
  have hcfg' : u.loaded.cfg = u.cfg := cfg_of_hostSide u.loaded_hostSide
  have hvalid : u.loaded.valid = 0x6D#8 := by rw [State.loaded_valid, hu.valid]; rfl
  have hflags : u.loaded.len .flags = s.number32 .art 12 := (State.len_congr (State.loaded_buf (by decide) u)).trans hu.flags
  have hready := hload.loaded_ready hsum'
  have hmodel : u.loaded.ModelOk := State.loaded_modelOk hsum'
  have hfits := hload.loaded_fits
  have hv0 := u.loaded.completed_err
  rw [← hhdr, ← hcfg'] at hsize'
  rw [← hcfg'] at hfits
  have horig : u.loaded.hdr.origSize.toNat = s.number32 .art 4 := by rw [hhdr, hu.origSize]
  replace hc : u.loaded.cfg.Bounded := by rwa [hcfg', hcfg]
  rw [hcfg] at hcfg'
  generalize u.loaded = v at *
  obtain ⟨t, hrun, hstatus, herr, htvalid, hthdr, htmodel, hok, hzero⟩ :=
    exec_decRun_fromStart hv0 hc hsize' hready hfits hout
  obtain ⟨hframe, hart⟩ := frameOfCompositeCommands.2 s t (hexec.trans hrun)
  change _ → v.hdr.origSize.toNat ≤ _ ∧ _ ≤ v.hdr.origSize.toNat + 254 ∧
    (v.cfg.decOvershoot = _ → _ = v.hdr.origSize.toNat) at hok
  change v.len .flags = 0 → _ ∧ _ = v.hdr.origSize.toNat at hzero
  rw [horig, hcfg'] at hok
  rw [horig, hflags] at hzero
  exact ⟨reinit_reinitValues .art s, u.completed, s₂, s₃, s₄, v.completed, t, hunpack, h₂, h₃, h₄, h₅, rfl, hrun,
    hexec.trans hrun, hstatus, herr, htvalid.trans hvalid, (congrArg (BitVec.toNat ∘ Header.origSize) hthdr).trans horig,
    htmodel hmodel, hok, hzero, hframe, hart⟩

end Sys2Proof.Machine


/-! PROOFS. The unit operations of the two composite commands in lockstep (spec 45_orchestration R234, R236, R247). -/

namespace Sys2Proof.Machine

/-- What an operation keeps of its state, put into the relation between its two ends. -/
theorem Res.Rel.andKeeps {α : Type} {R : State → State → Prop} {P : State → Prop} {r r' : Res α} (hr : Res.Rel R r r')
    (hk : r.Keeps P) : Res.Rel (fun s t => R s t ∧ P s) r r' := by
  cases hr with
  | ok a h => exact .ok a ⟨h, Res.keeps_ok_iff.mp hk⟩
  | raised k h => exact .raised k ⟨h, (Res.keeps_raised_iff.mp hk).2⟩
  | refused => exact .refused

/-! ### The parser's search -/

section Search
variable {f g : Nat → Byte} {n p : Nat} (hfg : ∀ k, k < n → g k = f k)
include hfg

theorem matchLen_congr {i room l : Nat} (hroom : p + l + room ≤ n) : matchLen g i p room l = matchLen f i p room l := by
  induction room generalizing l with
  | zero => rfl
  | succ room ih =>
    rw [matchLen, matchLen, hfg (p + l) (by omega), ih (by omega)]
    by_cases hi : i + l < p
    · rw [hfg (i + l) (by omega)]
    · rw [if_neg fun h => hi h.1, if_neg fun h => hi h.1]

theorem bestMatch_congr {room count i : Nat} {best : Nat × Nat} (hroom : p + room ≤ n) :
    bestMatch g p room count i best = bestMatch f p room count i best := by
  induction count generalizing i best with
  | zero => rfl
  | succ count ih => rw [bestMatch, bestMatch, matchLen_congr hfg hroom, ih]

/-- The search looks at the bytes of the input alone (43_lz77 R194). -/
theorem searchAt_congr (hp : p ≤ n) : searchAt g n p = searchAt f n p := bestMatch_congr hfg (by omega)

end Search

section Alike
variable {c : Config} {s t : State} (h : Alike s t)
include h

/-! ### The encoder's side -/

theorem Alike.append (sp : Space) (b : Byte) : Res.Rel Alike (append c sp b s) (append c sp b t) := alike_lockstep.append h sp b

theorem Alike.appendList (sp : Space) (bs : List Byte) : Res.Rel Alike (appendList c sp bs s) (appendList c sp bs t) := by
  induction bs generalizing s t with
  | nil => exact .ok _ h
  | cons b bs ih => exact (h.append sp b).bind fun _ _ _ h => ih h

theorem Alike.bwInit : Alike (bwInit s) (bwInit t) := ((h.setLen (Nat.zero_le _)).setWriter _ _).setFlushed _

theorem Alike.bwWbit (b : Bool) : Res.Rel Alike (bwWbit c b s) (bwWbit c b t) := by
  refine checked_rel h (by rw [bwOpen, bwOpen, h.bwFlushed]) h.len fun _ _ => ?_
  rw [h.bwCur, h.bwCnt]
  exact Res.rel_ite Iff.rfl (fun _ => (h.append _ _).bind fun _ _ _ h => .ok _ (h.setWriter _ _)) fun _ => .ok _ (h.setWriter _ _)

theorem Alike.bwFlush : Res.Rel Alike (bwFlush c s) (bwFlush c t) := by
  rw [Machine.bwFlush, Machine.bwFlush, h.bwCur]
  exact Res.rel_ite (by rw [h.bwCnt]) (fun _ => .ok _ (h.setFlushed _)) fun _ =>
    (h.append _ _).bind fun _ _ _ h => .ok _ ((h.setWriter _ _).setFlushed _)

theorem Alike.ssCount : Res.Rel Alike (ssCount c s) (ssCount c t) := by
  refine checked_rel h rfl h.len fun _ _ => ?_
  rw [h.len, h.bytes (by omega)]
  exact .ok _ ((h.setRaw _).putModel _)

theorem Alike.modelBytes (hss : s.isValid .ss = true) : modelBytes t = modelBytes s := by
  rw [Machine.modelBytes, Machine.modelBytes, (h.model hss).1]

theorem Alike.ssStore : Res.Rel Alike (ssStore c s) (ssStore c t) := by
  refine checked_rel h (h.isValid .ss) h.len fun hss _ => ?_
  rw [h.modelBytes hss]
  exact .ok _ (h.load _ _)

theorem Alike.lzInit : Alike (lzInit s) (lzInit t) :=
  (((h.setLzP _).setLen (Nat.zero_le _)).setLen (Nat.zero_le _)).setPlainValid (by decide)

theorem Alike.lzEmit {p : Nat} (hp : p < s.len .inp) (best : Nat × Nat) :
    Res.Rel Alike (lzEmit c p best s) (lzEmit c p best t) := by
  rw [Machine.lzEmit, Machine.lzEmit, h.byte (.inl hp)]
  refine Res.rel_ite Iff.rfl (fun _ => ?_) fun _ => ?_
  · refine (h.appendList _ _).bind fun _ _ _ h => (h.bwWbit _).bind fun _ _ _ h => ?_
    rw [h.lzP]
    exact .ok _ (h.setLzP _)
  · refine (h.append _ _).bind fun _ _ _ h => (h.bwWbit _).bind fun _ _ _ h => ?_
    rw [h.lzP]
    exact .ok _ (h.setLzP _)

theorem Alike.lzStep : Res.Rel Alike (lzStep c s) (lzStep c t) := by
  rw [lzStep_eq, lzStep_eq, h.lzP, h.len]
  refine checked_rel h (by rw [h.isValid]) h.len fun hp _ => ?_
  have hlt := of_decide_eq_true (Bool.and_eq_true_iff.mp hp).2
  rw [searchAt_congr (fun k hk => h.byte (.inl hk)) hlt.le]
  exact h.lzEmit hlt _

theorem Alike.lzLoop (fuel : Nat) : Res.Rel Alike (lzLoop c fuel s) (lzLoop c fuel t) := by
  induction fuel generalizing s t with
  | zero => exact .ok _ h
  | succ fuel ih => exact Res.rel_ite (by rw [h.lzP, h.len]) (fun _ => h.lzStep.bind fun _ _ _ h => ih h) fun _ => .ok _ h

theorem Alike.lzParse : Res.Rel Alike (lzParse c s) (lzParse c t) :=
  checked_rel h rfl h.len fun _ _ => by
    rw [h.len]
    exact h.lzInit.lzLoop _

theorem Alike.reInit : Alike (reInit c s) (reInit c t) :=
  ((h.setReState _).setLen (Nat.zero_le _)).setPlainValid (by decide)

theorem Alike.emitBytes (bound fuel : Nat) : Res.Rel Alike (emitBytes c bound fuel s) (emitBytes c bound fuel t) := by
  induction fuel generalizing s t with
  | zero => exact .ok _ h
  | succ fuel ih =>
    refine Res.rel_ite (by rw [h.reState]) (fun _ => ?_) fun _ => .ok _ h
    rw [h.reState]
    refine (h.append _ _).bind fun _ _ _ h => ?_
    rw [h.reState]
    exact ih (h.setReState _)

theorem Alike.rePut (sym : Byte) : Res.Rel Alike (rePut c sym s) (rePut c sym t) := by
  refine checked_rel h (by rw [h.isValid, h.isValid]) h.len fun hp _ => ?_
  have hss := (Bool.and_eq_true_iff.mp hp).2
  rw [h.freq hss, h.cumAt hss]
  refine Res.rel_ite Iff.rfl (fun _ => .raised _ h) fun _ => (h.emitBytes _ _).bind fun _ _ _ h => ?_
  rw [h.reState]
  exact .ok _ (h.setReState _)

theorem Alike.reFlush : Res.Rel Alike (reFlush c s) (reFlush c t) := by
  refine checked_rel h (h.isValid .re) h.len fun _ _ => ?_
  rw [h.reState]
  exact (h.appendList _ _).bind fun _ _ _ h => .ok _ h.closeEncoder

/-- The literals are read below `LIT_LEN`, which `RE.PUT` leaves. -/
theorem Alike.putLiterals {n : Nat} (hn : n ≤ s.len .lit) : Res.Rel Alike (putLiterals c n s) (putLiterals c n t) := by
  induction n generalizing s t with
  | zero => exact .ok _ h
  | succ n ih =>
    have hlit : (Machine.rePut c (s.byte .lit n) s).Keeps fun u => u.Holds .lit (s.buf .lit) :=
      (holds_keptBy c .lit _).rePut_keeps (by simp [Allows, writesOf]) rfl
    rw [Machine.putLiterals, Machine.putLiterals, h.byte (.inl hn)]
    exact ((h.rePut _).andKeeps hlit).bindFrom (fun _ _ h => h.1) fun _ u _ ⟨h, hu⟩ =>
       ih h ((Nat.le_of_succ_le hn).trans_eq (State.len_congr hu).symm)

/-! ### The container -/

theorem Alike.packHeader : packHeader t = packHeader s := by
  have hinp : t.inp.len = s.inp.len := h.lenReg .inp
  have hrans : t.rans.len = s.rans.len := h.lenReg .rans
  have hflags : t.flags.len = s.flags.len := h.lenReg .flags
  have hmtch : t.mtch.len = s.mtch.len := h.lenReg .mtch
  have hmodel : t.model.len = s.model.len := h.lenReg .model
  simp only [Machine.packHeader, hinp, hrans, hflags, hmtch, hmodel]

theorem Alike.packBytes : packBytes t = packBytes s := by simp only [Machine.packBytes, h.packHeader, h.contents]

theorem Alike.ctPack : Res.Rel Alike (ctPack c s) (ctPack c t) := by
  refine checked_rel h (by rw [h.len, h.bwCnt, h.isValid]) h.len fun _ _ => ?_
  rw [h.packHeader, h.packBytes]
  exact .ok _ (((h.setHdr fun _ => rfl).load _ _).setValid nofun nofun fun _ => by simp [State.load])

theorem Alike.artHeader (hlen : headerSize ≤ s.len .art) : artHeader t = artHeader s := by
  have hsize : headerSize = 24 := rfl
  have hfield (a : Nat) (ha : a + 4 ≤ 24) : t.field32 .art a = s.field32 .art a := h.field32 (by omega)
  simp only [Machine.artHeader, hfield 0 (by decide), hfield 4 (by decide), hfield 8 (by decide), hfield 12 (by decide),
    hfield 16 (by decide), hfield 20 (by decide)]

theorem Alike.unpackRegions {r f m : Nat} (hlen : headerSize + r + f + m + modelSize ≤ s.len .art) :
    Alike (unpackRegions r f m s) (unpackRegions r f m t) := by
  have hbytes {a n : Nat} (hn : a + n ≤ headerSize + r + f + m + modelSize) : t.bytes .art a n = s.bytes .art a n :=
    h.bytes (hn.trans hlen)
  rw [Machine.unpackRegions, Machine.unpackRegions, hbytes (a := headerSize) (by omega), hbytes (a := headerSize + r) (by omega),
    hbytes (a := headerSize + r + f) (by omega), hbytes le_rfl]
  exact (((h.load _ _).load _ _).load _ _).load _ _

theorem Alike.ctUnpack : Res.Rel Alike (ctUnpack c s) (ctUnpack c t) := by
  refine checked_rel h rfl h.len fun _ _ => Res.rel_ite (by rw [h.len]) (fun _ => .raised _ h) fun hlen => ?_
  rw [h.artHeader (not_lt.mp hlen), h.len]
  have hu := h.setHdr (v := Machine.artHeader s) fun _ => rfl
  refine Res.rel_ite Iff.rfl (fun _ => .raised _ (h.setHdr fun hh => by rw [h.hdr hh])) fun _ => ?_
  refine Res.rel_ite Iff.rfl (fun _ => .raised _ hu) fun hsize => ?_
  refine Res.rel_ite Iff.rfl (fun _ => .raised _ hu) fun hlong => ?_
  refine Res.rel_ite Iff.rfl (fun _ => .raised _ hu) fun _ => .ok _ ?_
  rw [not_not.mp (not_or.mp hsize).1] at hlong
  exact (hu.unpackRegions (not_lt.mp hlong)).setValid nofun nofun fun _ => by rw [unpackRegions_hdr, unpackRegions_hdr]; rfl

/-! ### The decoder's side -/

theorem Alike.regionFreqs (hlen : s.len .model = 512) : regionFreqs t = regionFreqs s := by
  refine List.map_congr_left fun i hi => ?_
  have hi : i < 256 := List.mem_range.mp hi
  rw [State.field16, State.field16, h.byte (.inl (by omega)), h.byte (.inl (by omega))]

theorem Alike.ssLoad : Res.Rel Alike (ssLoad c s) (ssLoad c t) := by
  refine checked_rel h (by rw [h.len]) h.len fun hlen _ => ?_
  rw [h.regionFreqs (by simpa using hlen)]
  exact Res.rel_ite Iff.rfl (fun _ => .ok _ (h.putModel _)) fun _ => .raised _ h

theorem Alike.rdInit : Res.Rel Alike (rdInit c s) (rdInit c t) := by
  refine checked_rel h (by rw [h.len]) h.len fun hlen _ => ?_
  have hlen : 4 ≤ s.len .rans := of_decide_eq_true hlen
  have hptr : (s.rans.len - 4#32).toNat ≤ s.len .rans := by
    have hword : s.len .rans = s.rans.len.toNat := rfl
    bv_omega
  have hreg : t.rans.len = s.rans.len := h.lenReg .rans
  have hb (a : Nat) (ha : a < (s.rans.len - 4#32).toNat) : t.byte .rans a = s.byte .rans a := h.byte (.inl (ha.trans_le hptr))
  rw [h.len, h.field32 (by omega), hreg]
  exact .ok _ ((h.setDecoder hb).setValid nofun (fun _ => ⟨⟨rfl, rfl⟩, hb⟩) nofun)

theorem Alike.brInit : Res.Rel Alike (brInit c s) (brInit c t) :=
  checked_rel h rfl h.len fun _ _ => .ok _ ((h.setBrPos _).setPlainValid (by decide))

theorem Alike.decInit : Res.Rel Alike (decInit c s) (decInit c t) :=
  checked_rel h (h.isValid .hdr) h.len fun hh _ => Res.rel_ite (by rw [h.hdr hh]) (fun _ => .raised _ h) fun _ =>
    .ok _ (((h.setDecMpos _).setLen (Nat.zero_le _)).setPlainValid (by decide))

theorem Alike.decRun (hc : c.Bounded) : Res.Rel Alike (decRun c s) (decRun c t) := by
  refine checked_rel h h.decReady h.len fun hready _ => ?_
  have hh := h.hdr ((decReady_iff s).mp hready).2.1
  rw [hh, h.len]
  refine (alikeWithHeader_lockstep.decLoop ⟨h, hh⟩ hc (fun h => h.2) _).bindFrom (fun _ _ h => h.1)
    fun _ _ _ ⟨h, hh⟩ => .ok _ ?_
  exact decEnd_rel h h hh fun hlt => h.setLen hlt.le

end Alike

end Sys2Proof.Machine


/-! PROOFS. `COMPRESS` and `DECOMPRESS` are functions of their input (spec 45_orchestration R247). -/

namespace Sys2Proof.Machine

/-! ### The composite commands in lockstep -/

/-- `REINIT` leaves alike two states with the same contents of the buffer kept (70_reset R306). -/
theorem alike_reinit {c : Config} {kept : Space} {s t : State} (hlen : t.len kept = s.len kept)
    (hbyte : ∀ a, a < s.len kept → t.byte kept a = s.byte kept a) : Alike (s.reinit c kept) (t.reinit c kept) := by
  have hnone (u : ValidBit) : (s.reinit c kept).isValid u ≠ true := by
    simp [State.isValid, State.reinit, State.wipe]
  have hlen' (sp : Space) : (s.reinit c kept).len sp = if sp = kept then s.len sp else 0 := by
    rw [State.len, reinit_buf]
    split <;> rfl
  exact {
    valid := rfl
    bwCur := rfl
    bwCnt := rfl
    bwFlushed := rfl
    brPos := rfl
    reState := rfl
    lzP := rfl
    decMpos := rfl
    lenReg := fun sp => by
      rw [reinit_buf, reinit_buf]
      split
      next heq => exact heq ▸ BitVec.eq_of_toNat_eq hlen
      next => rfl
    byte := fun {sp a} ha => by
      rcases ha with ha | ⟨-, hrd, -⟩
      · rw [hlen'] at ha
        split at ha
        next heq =>
          subst heq
          rw [State.byte_congr (reinit_kept c sp t), State.byte_congr (reinit_kept c sp s), hbyte a ha]
        next => omega
      · exact absurd hrd (hnone .rd)
    model := fun hv => absurd hv (hnone .ss)
    decoder := fun hv => absurd hv (hnone .rd)
    hdr := fun hv => absurd hv (hnone .hdr) }

theorem Alike.compressStages {c : Config} {s t : State} (h : Alike s t) :
    Res.Rel Alike (compressStages c s) (compressStages c t) :=
  h.ssCount.bind fun _ _ _ h => h.bwInit.lzParse.bind fun _ _ _ h => h.bwFlush.bind fun _ _ _ h => by
    rw [h.len]
    exact (h.reInit.putLiterals (c := c) le_rfl).bind fun _ _ _ h => h.reFlush.bind fun _ _ _ h =>
      h.ssStore.bind fun _ _ _ h => h.ctPack

section Composite
variable {c : Config} {s t : State}

theorem compress_rel (hlen : t.len .inp = s.len .inp) (hbyte : ∀ a, a < s.len .inp → t.byte .inp a = s.byte .inp a)
    (hcap : s.len .inp ≤ capacity c .inp) : Res.Rel Alike (compress c s) (compress c t) := by
  have h := alike_reinit (c := c) hlen hbyte
  rw [compress, compress, checked_pass rfl (by simpa using hcap), checked_pass rfl (by simpa [hlen] using hcap)]
  exact Res.rel_ite (by rw [h.len]) (fun _ => .raised _ h) fun _ => h.compressStages

theorem decompress_rel (hc : c.Bounded) (hlen : t.len .art = s.len .art)
    (hbyte : ∀ a, a < s.len .art → t.byte .art a = s.byte .art a) (hcap : s.len .art ≤ capacity c .art) :
    Res.Rel Alike (decompress c s) (decompress c t) := by
  have h := alike_reinit (c := c) hlen hbyte
  rw [decompress, decompress, checked_pass rfl (by simpa using hcap), checked_pass rfl (by simpa [hlen] using hcap)]
  exact h.ctUnpack.bind fun _ _ _ h => h.ssLoad.bind fun _ _ _ h => h.rdInit.bind fun _ _ _ h => h.brInit.bind fun _ _ _ h =>
    h.decInit.bind fun _ _ _ h => h.decRun hc

end Composite

/-- Two commands whose bodies end alike end with the same code, and in alike states but for a refusal. -/
theorem exec_alike {i : Instr} {s s' t t' : State} (hi : i ≠ .reset) (hs : s.err = 0#4) (hs' : s'.err = 0#4)
    (hbody : Res.Rel Alike (bodyOf i s) (bodyOf i s')) (h : exec i s = .next t) (h' : exec i s' = .next t') :
    t'.err = t.err ∧ (bodyOf i s ≠ .refused →
      ∀ sp, t'.len sp = t.len sp ∧ ∀ a, a < t.len sp → t'.byte sp a = t.byte sp a) := by
  have hends {u u' : State} (hu : Alike u u') (v v' : BitVec 8) (sp : Space) :
      { u' with status := v' }.len sp = { u with status := v }.len sp ∧
        ∀ a, a < { u with status := v }.len sp → { u' with status := v' }.byte sp a = { u with status := v }.byte sp a :=
    ⟨hu.len sp, fun a ha => hu.byte (.inl ha)⟩
  generalize hr : bodyOf i s = r at *
  generalize hr' : bodyOf i s' = r' at *
  cases hbody with
  | ok _ hu =>
    cases (exec_of_ok hi hs hr).symm.trans h
    cases (exec_of_ok hi hs' hr').symm.trans h'
    exact ⟨rfl, fun _ => hends hu _ _⟩
  | raised k hu =>
    cases (exec_of_fault hi hs hr).symm.trans h
    cases (exec_of_fault hi hs' hr').symm.trans h'
    exact ⟨rfl, fun _ => hends hu _ _⟩
  | refused =>
    cases (exec_of_refused hi hs hr).symm.trans h
    cases (exec_of_refused hi hs' hr').symm.trans h'
    exact ⟨rfl, fun h => absurd rfl h⟩

/-- `DECOMPRESS` is never refused: its unit commands find what they need (45_orchestration R236). -/
theorem decompress_not_refused {s : State} (hc : s.cfg.Bounded) (hcap : s.len .art ≤ capacity s.cfg .art) :
    decompress s.cfg s ≠ .refused := by
  by_cases hcode : unpackCode s = 0#4
  swap
  · obtain ⟨k, h, hb, -⟩ := decompress_of_failing_check hcap hcode
    rw [hb]
    exact nofun
  by_cases hsum : s.artModelSum = probScale
  swap
  · rw [decompress_badModel hcap hcode hsum]
    exact nofun
  by_cases hsize : s.number32 .art 4 ≤ s.cfg.nMax
  swap
  · rw [decompress_sizeOverflow hcap hcode hsum (not_le.mp hsize)]
    exact nofun
  have hu := unpacked_accepted hcode
  rw [decompress_decRun hcap hcode hsum hsize]
  generalize unpacked (s.reinit s.cfg .art) = u at *
  have horig : u.loaded.hdr.origSize.toNat ≤ s.cfg.nMax := by rwa [u.loaded_hdr, hu.origSize]
  have hready := hu.loadable.loaded_ready (hu.sum.trans hsum)
  rcases decRun_ends hc horig hready with ⟨t, -, hrun, -⟩ | ⟨k, t, hrun, -⟩ <;> rw [hrun] <;> exact nofun

/-- Settles O47: `REINIT` makes the two states alike (`alike_reinit`), the commands run in lockstep from there (`compress_rel`,
`decompress_rel`), and an input above its capacity stops both before. -/
theorem compressIsAFunctionOfItsInput : Obligations.CompressIsAFunctionOfItsInput := by
  refine ⟨fun s s' t t' hs hs' _ hcfg hlen hbyte h h' => ?_, fun s s' t t' hs hs' hc hcfg hlen hbyte h h' => ?_⟩
  · by_cases hcap : s.len .inp ≤ capacity s.cfg .inp
    · have hbody : Res.Rel Alike (bodyOf .compress s) (bodyOf .compress s') := by
        change Res.Rel Alike (compress s.cfg s) (compress s'.cfg s')
        rw [hcfg]
        exact compress_rel hlen hbyte hcap
      obtain ⟨herr, hends⟩ := exec_alike (by decide) hs hs' hbody h h'
      refine ⟨herr, fun h0 => hends ?_ .art⟩
      obtain ⟨u, hb, -⟩ := body_ok_of_exec (by decide) hs h h0
      rw [hb]
      exact nofun
    · have hover := (inputBufferOverflow s hs).1 .compress .inp (by decide) (not_le.mp hcap)
      have hover' := (inputBufferOverflow s' hs').1 .compress .inp (by decide) (by rw [hcfg, hlen]; exact not_le.mp hcap)
      cases hover.symm.trans h
      cases hover'.symm.trans h'
      exact ⟨rfl, fun h0 => absurd ((mkStatus_fields 13#4 true).1.symm.trans h0) (by decide)⟩
  · by_cases hcap : s.len .art ≤ capacity s.cfg .art
    · have hbody : Res.Rel Alike (bodyOf .decompress s) (bodyOf .decompress s') := by
        change Res.Rel Alike (decompress s.cfg s) (decompress s'.cfg s')
        rw [hcfg]
        exact decompress_rel hc hlen hbyte hcap
      obtain ⟨herr, hends⟩ := exec_alike (by decide) hs hs' hbody h h'
      exact ⟨herr, fun _ => hends (decompress_not_refused hc hcap) .out⟩
    · have hover := (inputBufferOverflow s hs).1 .decompress .art (by decide) (not_le.mp hcap)
      have hover' := (inputBufferOverflow s' hs').1 .decompress .art (by decide) (by rw [hcfg, hlen]; exact not_le.mp hcap)
      cases hover.symm.trans h
      cases hover'.symm.trans h'
      exact ⟨rfl, fun h0 => absurd h0 hcap⟩

end Sys2Proof.Machine


/-! PROOFS. The error codes (spec 60_exceptions R261, R266): no unit operation raises `IOOpen`, so no step writes a code of R261
that the block does not raise. -/

namespace Sys2Proof.Machine

/-! ### No operation raises `IOOpen` -/

/-- An operation that does not raise `IOOpen`, whose code is reserved for the host: the block has no files (60_exceptions R266). -/
inductive Res.NoIoOpen {α : Type} : Res α → Prop
  | ok (a : α) (t : State) : NoIoOpen (.ok a t)
  | raised {k : ErrKind} (hk : k ≠ .ioOpen) (t : State) : NoIoOpen (.raised k t)
  | refused : NoIoOpen .refused

section NoIoOpen
variable {α β : Type} {c : Config} {s : State}

theorem Res.NoIoOpen.kind_ne {k : ErrKind} {t : State} (h : (Res.raised k t : Res α).NoIoOpen) : k ≠ .ioOpen := by
  cases h; assumption

theorem Res.NoIoOpen.bind {r : Res α} {f : α → State → Res β} (hr : r.NoIoOpen) (hf : ∀ a t, (f a t).NoIoOpen) :
    (r.bind f).NoIoOpen := by
  cases hr with
  | ok a t => exact hf a t
  | raised hk t => exact .raised hk t
  | refused => exact .refused

theorem Res.noIoOpen_ite {p : Prop} [Decidable p] {r r' : Res α} (h : r.NoIoOpen) (h' : r'.NoIoOpen) :
    (if p then r else r').NoIoOpen := by
  split
  · exact h
  · exact h'

theorem checked_noIoOpen {pre : Bool} {inputs : List Space} {go : Unit → Res α} (hg : (go ()).NoIoOpen) :
    (checked c pre inputs s go).NoIoOpen :=
  Res.noIoOpen_ite .refused (Res.noIoOpen_ite (.raised (by decide) _) hg)

theorem append_noIoOpen {sp : Space} {b : Byte} : (append c sp b s).NoIoOpen := Res.noIoOpen_ite (.ok _ _) .refused

theorem appendList_noIoOpen {sp : Space} {bs : List Byte} : (appendList c sp bs s).NoIoOpen := by
  induction bs generalizing s with
  | nil => exact .ok _ _
  | cons b bs ih => exact append_noIoOpen.bind fun _ _ => ih

theorem bwWbit_noIoOpen {b : Bool} : (bwWbit c b s).NoIoOpen :=
  checked_noIoOpen (Res.noIoOpen_ite (append_noIoOpen.bind fun _ _ => .ok _ _) (.ok _ _))

theorem bwBits_noIoOpen {v : Word} {n : Nat} : (bwBits c v n s).NoIoOpen := by
  induction n generalizing s with
  | zero => exact .ok _ _
  | succ n ih => exact bwWbit_noIoOpen.bind fun _ _ => ih

theorem bwWbits_noIoOpen {v n : Word} : (bwWbits c v n s).NoIoOpen := checked_noIoOpen bwBits_noIoOpen

theorem bwFlush_noIoOpen : (bwFlush c s).NoIoOpen :=
  Res.noIoOpen_ite (.ok _ _) (append_noIoOpen.bind fun _ _ => .ok _ _)

theorem brInit_noIoOpen : (brInit c s).NoIoOpen := checked_noIoOpen (.ok _ _)

theorem brRbit_noIoOpen : (brRbit c s).NoIoOpen := checked_noIoOpen (Res.noIoOpen_ite (.ok _ _) (.ok _ _))

theorem brBits_noIoOpen {n : Nat} {v : Word} : (brBits c n v s).NoIoOpen := by
  induction n generalizing s v with
  | zero => exact .ok _ _
  | succ n ih => exact brRbit_noIoOpen.bind fun _ _ => ih

theorem brRbits_noIoOpen {n : Word} : (brRbits c n s).NoIoOpen := checked_noIoOpen brBits_noIoOpen

theorem ssCount_noIoOpen : (ssCount c s).NoIoOpen := checked_noIoOpen (.ok _ _)

theorem ssStore_noIoOpen : (ssStore c s).NoIoOpen := checked_noIoOpen (.ok _ _)

/-- `SS.LOAD` raises `BadModel` (41_symbolstats R150). -/
theorem ssLoad_noIoOpen : (ssLoad c s).NoIoOpen := checked_noIoOpen (Res.noIoOpen_ite (.ok _ _) (.raised (by decide) _))

theorem emitBytes_noIoOpen {bound fuel : Nat} : (emitBytes c bound fuel s).NoIoOpen := by
  induction fuel generalizing s with
  | zero => exact .ok _ _
  | succ fuel ih => exact Res.noIoOpen_ite (append_noIoOpen.bind fun _ _ => ih) (.ok _ _)

/-- `RE.PUT` raises `ZeroFreq` (42_rans R163). -/
theorem rePut_noIoOpen {sym : Byte} : (rePut c sym s).NoIoOpen :=
  checked_noIoOpen (Res.noIoOpen_ite (.raised (by decide) _) (emitBytes_noIoOpen.bind fun _ _ => .ok _ _))

theorem reFlush_noIoOpen : (reFlush c s).NoIoOpen := checked_noIoOpen (appendList_noIoOpen.bind fun _ _ => .ok _ _)

theorem rdInit_noIoOpen : (rdInit c s).NoIoOpen := checked_noIoOpen (.ok _ _)

theorem rdGet_noIoOpen : (rdGet c s).NoIoOpen := checked_noIoOpen (.ok _ _)

theorem lzStep_noIoOpen : (lzStep c s).NoIoOpen :=
  checked_noIoOpen (Res.noIoOpen_ite
    (appendList_noIoOpen.bind fun _ _ => bwWbit_noIoOpen.bind fun _ _ => .ok _ _)
    (append_noIoOpen.bind fun _ _ => bwWbit_noIoOpen.bind fun _ _ => .ok _ _))

theorem lzLoop_noIoOpen {fuel : Nat} : (lzLoop c fuel s).NoIoOpen := by
  induction fuel generalizing s with
  | zero => exact .ok _ _
  | succ fuel ih => exact Res.noIoOpen_ite (lzStep_noIoOpen.bind fun _ _ => ih) (.ok _ _)

theorem lzParse_noIoOpen : (lzParse c s).NoIoOpen := checked_noIoOpen lzLoop_noIoOpen

theorem ctPack_noIoOpen : (ctPack c s).NoIoOpen := checked_noIoOpen (.ok _ _)

/-- `CT.UNPACK` raises the faults of the artifact's header (44_container R214). -/
theorem ctUnpack_noIoOpen : (ctUnpack c s).NoIoOpen := by
  refine checked_noIoOpen (Res.noIoOpen_ite (.raised (by decide) _) ?_)
  refine Res.noIoOpen_ite (.raised (by decide) _) ?_
  refine Res.noIoOpen_ite (.raised (by decide) _) ?_
  refine Res.noIoOpen_ite (.raised (by decide) _) ?_
  exact Res.noIoOpen_ite (.raised (by decide) _) (.ok _ _)

theorem decInit_noIoOpen : (decInit c s).NoIoOpen :=
  checked_noIoOpen (Res.noIoOpen_ite (.raised (by decide) _) (.ok _ _))

theorem copyOut_noIoOpen {n src : Nat} : (copyOut c n src s).NoIoOpen := by
  induction n generalizing s src with
  | zero => exact .ok _ _
  | succ n ih => exact append_noIoOpen.bind fun _ _ => ih

/-- A match raises `InvalidDistance` (45_orchestration R251). -/
theorem matchToken_noIoOpen {dist : Half} {len : Byte} : (matchToken c dist len s).NoIoOpen :=
  Res.noIoOpen_ite (.raised (by decide) _) copyOut_noIoOpen

/-- A `DEC.STEP` runs the token the flag bit announces, or raises `MatchUnderflow` (45_orchestration R240). -/
theorem decStep_noIoOpen : (decStep c s).NoIoOpen := by
  refine checked_noIoOpen (brRbit_noIoOpen.bind fun b t => ?_)
  split
  · exact rdGet_noIoOpen.bind fun _ _ => append_noIoOpen
  · exact matchToken_noIoOpen
  · exact .raised (by decide) _

theorem decLoop_noIoOpen {fuel : Nat} : (decLoop c fuel s).NoIoOpen := by
  induction fuel generalizing s with
  | zero => exact .ok _ _
  | succ fuel ih => exact Res.noIoOpen_ite (decStep_noIoOpen.bind fun _ _ => ih) (.ok _ _)

theorem decRun_noIoOpen : (decRun c s).NoIoOpen := checked_noIoOpen (decLoop_noIoOpen.bind fun _ _ => .ok _ _)

theorem putLiterals_noIoOpen {n : Nat} : (putLiterals c n s).NoIoOpen := by
  induction n generalizing s with
  | zero => exact .ok _ _
  | succ n ih => exact rePut_noIoOpen.bind fun _ _ => ih

/-- `COMPRESS` raises `EmptyInput`, or what its unit operations raise (45_orchestration R232, R234). -/
theorem compress_noIoOpen : (compress c s).NoIoOpen :=
  checked_noIoOpen (Res.noIoOpen_ite (.raised (by decide) _) <|
    ssCount_noIoOpen.bind fun _ _ => lzParse_noIoOpen.bind fun _ _ => bwFlush_noIoOpen.bind fun _ _ =>
    putLiterals_noIoOpen.bind fun _ _ => reFlush_noIoOpen.bind fun _ _ => ssStore_noIoOpen.bind fun _ _ => ctPack_noIoOpen)

theorem decompress_noIoOpen : (decompress c s).NoIoOpen :=
  checked_noIoOpen <|
    ctUnpack_noIoOpen.bind fun _ _ => ssLoad_noIoOpen.bind fun _ _ => rdInit_noIoOpen.bind fun _ _ =>
    brInit_noIoOpen.bind fun _ _ => decInit_noIoOpen.bind fun _ _ => decRun_noIoOpen

/-- No instruction raises `IOOpen`. -/
theorem bodyOf_noIoOpen (i : Instr) (s : State) : (bodyOf i s).NoIoOpen := by
  cases i with
  | lit => exact Res.noIoOpen_ite decStep_noIoOpen .refused
  | matchTok dist len => exact Res.noIoOpen_ite decStep_noIoOpen .refused
  | reset => exact .refused
  | compress => exact compress_noIoOpen
  | decompress => exact decompress_noIoOpen
  | bwInit => exact .ok _ _
  | bwWbit => exact bwWbit_noIoOpen
  | bwWbits => exact bwWbits_noIoOpen
  | bwFlush => exact bwFlush_noIoOpen
  | bwBytes => exact .ok _ _
  | brInit => exact brInit_noIoOpen
  | brRbit => exact brRbit_noIoOpen.bind fun _ _ => .ok _ _
  | brRbits => exact brRbits_noIoOpen.bind fun _ _ => .ok _ _
  | ssCount => exact ssCount_noIoOpen
  | ssStore => exact ssStore_noIoOpen
  | ssLoad => exact ssLoad_noIoOpen
  | reInit => exact .ok _ _
  | rePut => exact rePut_noIoOpen
  | reFlush => exact reFlush_noIoOpen
  | rdInit => exact rdInit_noIoOpen
  | rdGet => exact rdGet_noIoOpen.bind fun _ _ => .ok _ _
  | lzInit => exact .ok _ _
  | lzStep => exact lzStep_noIoOpen
  | lzParse => exact lzParse_noIoOpen
  | ctPack => exact ctPack_noIoOpen
  | ctUnpack => exact ctUnpack_noIoOpen
  | decInit => exact decInit_noIoOpen
  | decStep => exact decStep_noIoOpen
  | decRun => exact decRun_noIoOpen

end NoIoOpen

/-! ### The codes a step leaves in `STATUS.ERR` -/

/-- The codes of 60_exceptions R261 that the block itself writes, and 0. -/
def listedCodes : List (BitVec 4) := [0#4, 2#4, 3#4, 4#4, 5#4, 8#4, 9#4, 10#4, 11#4, 12#4, 13#4]

theorem ErrKind.code_listed {k : ErrKind} (hk : k ≠ .ioOpen) : k.code ∈ listedCodes := by
  cases k
  case ioOpen => exact absurd rfl hk
  all_goals decide

section Listed
variable {s t : State}

theorem State.takeFault_listed {k : ErrKind} (hk : k ≠ .ioOpen) (hs : s.err ∈ listedCodes) :
    (s.takeFault k).err ∈ listedCodes := by
  rw [State.takeFault, State.setDone_err, State.recordErr_err]
  split
  · exact ErrKind.code_listed hk
  · exact hs

/-- Taking a refusal writes `STATUS` as taking `NotReady` does. -/
theorem State.takeRefusal_listed (hs : s.err ∈ listedCodes) : s.takeRefusal.err ∈ listedCodes :=
  State.takeFault_listed (k := .notReady) (by decide) hs

/-- A body that keeps `STATUS` and does not raise `IOOpen` ends in a listed code. -/
theorem finish_listed {r : Res Unit} (hr : r.Keeps fun t => t.status = s.status) (hk : r.NoIoOpen)
    (hs : s.err ∈ listedCodes) : (finish s r).err ∈ listedCodes := by
  have hkept : ∀ t : State, t.status = s.status → t.err ∈ listedCodes := fun t ht => State.err_eq_of_status ht ▸ hs
  cases hr with
  | ok a h => exact (State.setDone_err true _).symm ▸ hkept _ h
  | raised _ h => exact State.takeFault_listed hk.kind_ne (hkept _ h)
  | refused => exact State.takeRefusal_listed hs

theorem exec_listed {i : Instr} (h : exec i s = .next t) (hs : s.err ∈ listedCodes) : t.err ∈ listedCodes := by
  by_cases hi : i = .reset
  · subst hi
    cases h
    rw [State.resetAll_err]
    decide
  · rw [exec_eq_command hi, command] at h
    cases h
    split
    · exact finish_listed ((bodyOf_keeps i s).imp fun _ ht => ht.1) (bodyOf_noIoOpen i s) hs
    · exact State.takeRefusal_listed hs

theorem hostWriteReg_keeps_err {num : Nat} {v : Word} (h : hostWriteReg num v s = .next t) : t.err = s.err := by
  rcases hostWriteReg_cases h with rfl | rfl | ⟨sp, rfl⟩ | rfl
  · rfl
  · rfl
  · exact State.setLen_err sp v s
  · rfl

theorem State.issue_err (v : Word) (s : State) : (s.issue v).err = s.err := State.setDone_err false _

theorem step_listed (h : step s = .next t) (hs : s.err ∈ listedCodes) : t.err ∈ listedCodes := by
  rcases step_cases s with hr | ⟨rest, ⟨num, v, hr⟩ | ⟨sp, addr, b, hr⟩ | ⟨v, i, hr⟩ | ⟨v, hr⟩⟩ <;> rw [hr] at h
  · cases h
    exact hs
  · rw [hostWriteReg_keeps_err h]
    exact hs
  · rw [hostWriteByte_next h, State.writeBytes_err]
    exact hs
  · refine exec_listed h ?_
    rw [State.issue_err]
    exact hs
  · cases h
    refine State.takeRefusal_listed ?_
    rw [State.issue_err]
    exact hs

end Listed

/-- Settles O11: a command keeps `STATUS` until its end (`bodyOf_keeps`) and raises no `IOOpen` (`bodyOf_noIoOpen`), so the code it
ends with is a listed one; a host access writes none. -/
theorem onlyListedErrorCodes : Obligations.OnlyListedErrorCodes := fun _ _ h hs => step_listed h hs

end Sys2Proof.Machine


/-! PROOFS. The stickiness of errors (spec 10_state R24; 70_reset R300, R318). -/

namespace Sys2Proof.Machine

/-- While `STATUS.ERR` is not 0 an instruction other than `RESET` only sets `DONE`: it is a `command`, and every command is refused
there before its body runs (10_state R24). -/
theorem exec_sticky {i : Instr} {s : State} (hi : i ≠ .reset) (herr : s.err ≠ 0#4) : exec i s = .next (s.setDone true) :=
  (exec_eq_command hi s).trans (command_sticky (bodyOf i) herr)

/-- `RESET` empties every buffer (70_reset R300). -/
theorem State.resetAll_len (s : State) (sp : Space) : (s.resetAll s.cfg).len sp = 0 := by
  obtain ⟨-, -, -, -, -, hlen, -⟩ := resetAll_resetValues s
  exact hlen sp

/-- Settles O10: every command is refused while an error stands (`exec_sticky`), and `RESET`, which is no `command`, clears the error
with the length registers. -/
theorem errorsAreSticky : Obligations.ErrorsAreSticky := fun s herr =>
  ⟨fun _ hi => exec_sticky hi herr, s.resetAll s.cfg, exec_reset s, s.resetAll_err s.cfg, s.resetAll_len⟩

end Sys2Proof.Machine
